-- ==== Sys2Proof/Word.lean ====
section
/-! DEFINITION. Word.lean: the bit-vector types of the core (spec/00_scope.md R7, R10). Everything is unsigned. -/

namespace Sys2Proof

/-- A 4-bit field of an instruction word: a register index, a count or a sub-selector (R81). -/
abbrev Nibble := BitVec 4

/-- A byte: a general register, a timer, a memory cell, an immediate `kk` (R20, R30, R60, R81). -/
abbrev Byte := BitVec 8

/-- The 12-bit address field `nnn` (R81). -/
abbrev Addr := BitVec 12

/-- A 16-bit word: an instruction, `PC`, `I`, `SP` (R23, R25, R27, R80). -/
abbrev Word := BitVec 16

end Sys2Proof
end

