-- ==== Sys2Proof/Syntax.lean ====
section
/-! DEFINITION. Syntax.lean: the instructions, one constructor per row of spec/opcode_table.json. A field `ign` holds the
bits that the row's decoder ignores (R86, R89, R140), kept so that a word can be written back whole (log entry 14). -/

namespace Sys2Proof

/-- One constructor per row of spec/opcode_table.json (49 rows), in the table's order. -/
inductive Instr where
  /-- CLS, `0_E0` (R180). -/
  | cls (ign : Nibble)
  /-- RET, `0_EE` (R181). -/
  | ret (ign : Nibble)
  /-- SCD n, `0_Cn` (R182). -/
  | scd (ign n : Nibble)
  /-- SCR, `0_FB` (R183). -/
  | scr (ign : Nibble)
  /-- SCL, `0_FC` (R184). -/
  | scl (ign : Nibble)
  /-- EXIT, `0_FD` (R185). -/
  | exit (ign : Nibble)
  /-- LOW, `0_FE` (R186). -/
  | low (ign : Nibble)
  /-- HIGH, `0_FF` (R187). -/
  | high (ign : Nibble)
  /-- JP nnn, `1nnn` (R101). -/
  | jp (nnn : Addr)
  /-- CALL nnn, `2nnn` (R102). -/
  | call (nnn : Addr)
  /-- SE Vx, kk, `3xkk` (R103). -/
  | seVxKk (x : Nibble) (kk : Byte)
  /-- SNE Vx, kk, `4xkk` (R104). -/
  | sneVxKk (x : Nibble) (kk : Byte)
  /-- SE Vx, Vy, `5xy_` (R105). -/
  | seVxVy (x y ign : Nibble)
  /-- LD Vx, kk, `6xkk` (R106). -/
  | ldVxKk (x : Nibble) (kk : Byte)
  /-- ADD Vx, kk, `7xkk` (R107). -/
  | addVxKk (x : Nibble) (kk : Byte)
  /-- LD Vx, Vy, `8xy0` (R131). -/
  | ldVxVy (x y : Nibble)
  /-- OR Vx, Vy, `8xy1` (R132). -/
  | orVxVy (x y : Nibble)
  /-- AND Vx, Vy, `8xy2` (R133). -/
  | andVxVy (x y : Nibble)
  /-- XOR Vx, Vy, `8xy3` (R134). -/
  | xorVxVy (x y : Nibble)
  /-- ADD Vx, Vy, `8xy4` (R135). -/
  | addVxVy (x y : Nibble)
  /-- SUB Vx, Vy, `8xy5` (R136). -/
  | sub (x y : Nibble)
  /-- SHR Vx, `8xy6`; `y` is decoded and ignored (R137). -/
  | shr (x y : Nibble)
  /-- SUBN Vx, Vy, `8xy7` (R138). -/
  | subn (x y : Nibble)
  /-- SHL Vx, `8xyE`; `y` is decoded and ignored (R139). -/
  | shl (x y : Nibble)
  /-- NOP8, `8xy8` (R140). -/
  | nop8x8 (ign : Byte)
  /-- NOP8, `8xy9` (R140). -/
  | nop8x9 (ign : Byte)
  /-- NOP8, `8xyA` (R140). -/
  | nop8xA (ign : Byte)
  /-- NOP8, `8xyB` (R140). -/
  | nop8xB (ign : Byte)
  /-- NOP8, `8xyC` (R140). -/
  | nop8xC (ign : Byte)
  /-- NOP8, `8xyD` (R140). -/
  | nop8xD (ign : Byte)
  /-- NOP8, `8xyF` (R140). -/
  | nop8xF (ign : Byte)
  /-- SNE Vx, Vy, `9xy_` (R108). -/
  | sneVxVy (x y ign : Nibble)
  /-- LD I, nnn, `Annn` (R109). -/
  | ldINnn (nnn : Addr)
  /-- JP V0, nnn, `Bnnn` (R110). -/
  | jpV0 (nnn : Addr)
  /-- RND Vx, kk, `Cxkk` (R111). -/
  | rnd (x : Nibble) (kk : Byte)
  /-- DRW Vx, Vy, n, `Dxyn` (R200). -/
  | drw (x y n : Nibble)
  /-- SKP Vx, `Ex9E` (R220). -/
  | skp (x : Nibble)
  /-- SKNP Vx, `ExA1` (R221). -/
  | sknp (x : Nibble)
  /-- LD Vx, DT, `Fx07` (R150). -/
  | ldVxDt (x : Nibble)
  /-- LD Vx, K, `Fx0A` (R151). -/
  | ldVxK (x : Nibble)
  /-- LD DT, Vx, `Fx15` (R152). -/
  | ldDtVx (x : Nibble)
  /-- LD ST, Vx, `Fx18` (R153). -/
  | ldStVx (x : Nibble)
  /-- ADD I, Vx, `Fx1E` (R154). -/
  | addIVx (x : Nibble)
  /-- LD F, Vx, `Fx29` (R155). -/
  | ldFVx (x : Nibble)
  /-- LD B, Vx, `Fx33` (R156). -/
  | ldBVx (x : Nibble)
  /-- LD [I], Vx, `Fx55` (R157). -/
  | ldMiVx (x : Nibble)
  /-- LD Vx, [I], `Fx65` (R158). -/
  | ldVxMi (x : Nibble)
  /-- LD R, Vx, `Fx75` with `x` at most 7 (R159). -/
  | ldRVx (x : Nibble)
  /-- LD Vx, R, `Fx85` with `x` at most 7 (R160). -/
  | ldVxR (x : Nibble)
  deriving DecidableEq, Repr

end Sys2Proof
end

