-- ==== Sys2Proof/WellFormed.lean ====
section
/-! DEFINITION. WellFormed.lean: which terms of `Instr` are instructions. The one bound a field does not already carry in
its type is R90's: `Fx75` and `Fx85` name a register V0..V7. -/

namespace Sys2Proof

/-- True of the instructions that some word encodes. -/
def Instr.wellFormed : Instr → Bool
  | .ldRVx x => decide (x.toNat ≤ 7)
  | .ldVxR x => decide (x.toNat ≤ 7)
  | .cls _ | .ret _ | .scd _ _ | .scr _ | .scl _ | .exit _ | .low _ | .high _ => true
  | .jp _ | .call _ | .seVxKk _ _ | .sneVxKk _ _ | .seVxVy _ _ _ | .ldVxKk _ _ | .addVxKk _ _ => true
  | .ldVxVy _ _ | .orVxVy _ _ | .andVxVy _ _ | .xorVxVy _ _ | .addVxVy _ _ => true
  | .sub _ _ | .shr _ _ | .subn _ _ | .shl _ _ => true
  | .nop8x8 _ | .nop8x9 _ | .nop8xA _ | .nop8xB _ | .nop8xC _ | .nop8xD _ | .nop8xF _ => true
  | .sneVxVy _ _ _ | .ldINnn _ | .jpV0 _ | .rnd _ _ | .drw _ _ _ | .skp _ | .sknp _ => true
  | .ldVxDt _ | .ldVxK _ | .ldDtVx _ | .ldStVx _ | .addIVx _ | .ldFVx _ | .ldBVx _ | .ldMiVx _ | .ldVxMi _ => true

end Sys2Proof
end

