-- ==== Sys2Proof/Decode.lean ====
section
/-! DEFINITION. Decode.lean: the dispatch tree of spec/30_encoding.md (R80-R90), the encoder written from the same tables,
and the decoder as spec/opcode_table.json numbers an instruction's bits. Decoding reads no state (R92). -/

namespace Sys2Proof

/-- The sub-selector values of families 8, 0, E and F (R85-R88). They are the spec's general knowledge (D12, 93 G5), so they
stand in one record of constants, as 91_not_in_source.md asks (log entry 15). -/
structure Selectors where
  move : Nibble
  or : Nibble
  and : Nibble
  xor : Nibble
  add : Nibble
  sub : Nibble
  shr : Nibble
  subn : Nibble
  shl : Nibble
  cls : Byte
  ret : Byte
  /-- `IR[7:4]` of SCD (R86). -/
  scdHi : Nibble
  scr : Byte
  scl : Byte
  exit : Byte
  low : Byte
  high : Byte
  skp : Byte
  sknp : Byte
  ldVxDt : Byte
  ldVxK : Byte
  ldDtVx : Byte
  ldStVx : Byte
  addIVx : Byte
  ldFVx : Byte
  ldBVx : Byte
  ldMiVx : Byte
  ldVxMi : Byte
  ldRVx : Byte
  ldVxR : Byte

/-- The conventional values (R85, R86, R87, R88, D12). -/
def selectors : Selectors where
  move := 0x0
  or := 0x1
  and := 0x2
  xor := 0x3
  add := 0x4
  sub := 0x5
  shr := 0x6
  subn := 0x7
  shl := 0xE
  cls := 0xE0
  ret := 0xEE
  scdHi := 0xC
  scr := 0xFB
  scl := 0xFC
  exit := 0xFD
  low := 0xFE
  high := 0xFF
  skp := 0x9E
  sknp := 0xA1
  ldVxDt := 0x07
  ldVxK := 0x0A
  ldDtVx := 0x15
  ldStVx := 0x18
  addIVx := 0x1E
  ldFVx := 0x29
  ldBVx := 0x33
  ldMiVx := 0x55
  ldVxMi := 0x65
  ldRVx := 0x75
  ldVxR := 0x85

/-- Why bits are no instruction. The first four are R90's unknown opcodes, in its order. -/
inductive Unknown where
  /-- A family-0 word whose low byte R86 does not list. -/
  | family0 (kk : Byte)
  /-- A family-E word whose low byte is neither selector of R87. -/
  | familyE (kk : Byte)
  /-- A family-F word whose low byte R88 does not list. -/
  | familyF (kk : Byte)
  /-- An `Fx75` or `Fx85` word with `x` above 7. -/
  | flagStorage (x : Nibble)
  /-- Fewer than the two bytes every instruction has (R80): not a word at all, and no fetch can give it (R66). -/
  | truncated
  deriving DecidableEq, Repr

/-- `op = IR[15:12]` (R81). -/
def fieldOp (w : Word) : Nibble := w.extractLsb' 12 4
/-- `x = IR[11:8]` (R81). -/
def fieldX (w : Word) : Nibble := w.extractLsb' 8 4
/-- `y = IR[7:4]` (R81). -/
def fieldY (w : Word) : Nibble := w.extractLsb' 4 4
/-- `n = IR[3:0]` (R81). -/
def fieldN (w : Word) : Nibble := w.extractLsb' 0 4
/-- `kk = IR[7:0]` (R81). -/
def fieldKk (w : Word) : Byte := w.extractLsb' 0 8
/-- `nnn = IR[11:0]` (R81). -/
def fieldNnn (w : Word) : Addr := w.extractLsb' 0 12
/-- `IR[11:4]`, which NOP8 ignores (R140). -/
def fieldXy (w : Word) : Byte := w.extractLsb' 4 8

/-- The entry of a dispatch table under the selector `k`. -/
def pick {κ β : Type} [DecidableEq κ] (k : κ) : List (κ × β) → Option β
  | [] => none
  | (a, b) :: rest => if k = a then some b else pick k rest

/-- R86's table, less SCD, whose low byte holds its count. -/
def table0 : List (Byte × (Nibble → Instr)) :=
  [(selectors.cls, .cls), (selectors.ret, .ret), (selectors.scr, .scr), (selectors.scl, .scl),
    (selectors.exit, .exit), (selectors.low, .low), (selectors.high, .high)]

/-- R85's table, less the last unassigned code. -/
def table8 : List (Nibble × (Word → Instr)) :=
  [(selectors.move, fun w => .ldVxVy (fieldX w) (fieldY w)), (selectors.or, fun w => .orVxVy (fieldX w) (fieldY w)),
    (selectors.and, fun w => .andVxVy (fieldX w) (fieldY w)), (selectors.xor, fun w => .xorVxVy (fieldX w) (fieldY w)),
    (selectors.add, fun w => .addVxVy (fieldX w) (fieldY w)), (selectors.sub, fun w => .sub (fieldX w) (fieldY w)),
    (selectors.shr, fun w => .shr (fieldX w) (fieldY w)), (selectors.subn, fun w => .subn (fieldX w) (fieldY w)),
    (selectors.shl, fun w => .shl (fieldX w) (fieldY w))] ++
  [(0x8, fun w => .nop8x8 (fieldXy w)), (0x9, fun w => .nop8x9 (fieldXy w)), (0xA, fun w => .nop8xA (fieldXy w)),
    (0xB, fun w => .nop8xB (fieldXy w)), (0xC, fun w => .nop8xC (fieldXy w)), (0xD, fun w => .nop8xD (fieldXy w))]

/-- R87's table. -/
def tableE : List (Byte × (Nibble → Instr)) := [(selectors.skp, .skp), (selectors.sknp, .sknp)]

/-- R88's table. -/
def tableF : List (Byte × (Nibble → Instr)) :=
  [(selectors.ldVxDt, .ldVxDt), (selectors.ldVxK, .ldVxK), (selectors.ldDtVx, .ldDtVx), (selectors.ldStVx, .ldStVx),
    (selectors.addIVx, .addIVx), (selectors.ldFVx, .ldFVx), (selectors.ldBVx, .ldBVx), (selectors.ldMiVx, .ldMiVx),
    (selectors.ldVxMi, .ldVxMi), (selectors.ldRVx, .ldRVx), (selectors.ldVxR, .ldVxR)]

/-- Family 0 dispatches on the low byte; bits 11:8 are ignored (R86). -/
def decodeFamily0 (w : Word) : Except Unknown Instr :=
  if fieldY w = selectors.scdHi then .ok (.scd (fieldX w) (fieldN w))
  else
    match pick (fieldKk w) table0 with
    | some build => .ok (build (fieldX w))
    | none => .error (.family0 (fieldKk w))

/-- Family 8 dispatches on the low nibble; a code that names no operation is a no-op, so that every code is assigned (R85, C5). -/
def decodeFamily8 (w : Word) : Instr :=
  match pick (fieldN w) table8 with
  | some build => build w
  | none => .nop8xF (fieldXy w)

/-- Family E dispatches on the low byte (R87). -/
def decodeFamilyE (w : Word) : Except Unknown Instr :=
  match pick (fieldKk w) tableE with
  | some build => .ok (build (fieldX w))
  | none => .error (.familyE (fieldKk w))

/-- Family F dispatches on the low byte; `Fx75` and `Fx85` need `x` at most 7, which is what well-formed says of them (R88, R90). -/
def decodeFamilyF (w : Word) : Except Unknown Instr :=
  match pick (fieldKk w) tableF with
  | some build =>
    if (build (fieldX w)).wellFormed then .ok (build (fieldX w)) else .error (.flagStorage (fieldX w))
  | none => .error (.familyF (fieldKk w))

/-- The primary dispatch on `IR[15:12]` (R84). -/
def decode (w : Word) : Except Unknown Instr :=
  match (fieldOp w).toNat with
  | 0x0 => decodeFamily0 w
  | 0x1 => .ok (.jp (fieldNnn w))
  | 0x2 => .ok (.call (fieldNnn w))
  | 0x3 => .ok (.seVxKk (fieldX w) (fieldKk w))
  | 0x4 => .ok (.sneVxKk (fieldX w) (fieldKk w))
  | 0x5 => .ok (.seVxVy (fieldX w) (fieldY w) (fieldN w))
  | 0x6 => .ok (.ldVxKk (fieldX w) (fieldKk w))
  | 0x7 => .ok (.addVxKk (fieldX w) (fieldKk w))
  | 0x8 => .ok (decodeFamily8 w)
  | 0x9 => .ok (.sneVxVy (fieldX w) (fieldY w) (fieldN w))
  | 0xA => .ok (.ldINnn (fieldNnn w))
  | 0xB => .ok (.jpV0 (fieldNnn w))
  | 0xC => .ok (.rnd (fieldX w) (fieldKk w))
  | 0xD => .ok (.drw (fieldX w) (fieldY w) (fieldN w))
  | 0xE => decodeFamilyE w
  | _ => decodeFamilyF w

/-- The word of two bytes as memory holds them, the byte at the lower address in bits 15:8 (R65, R82). -/
def wordOfBytes (hi lo : Byte) : Word := hi ++ lo

/-- The decoder on bytes: an instruction is exactly two bytes (R80), and what is left over is given back. -/
def decodeBytes : List Byte → Except Unknown (Instr × List Byte)
  | hi :: lo :: rest =>
    match decode (wordOfBytes hi lo) with
    | .ok i => .ok (i, rest)
    | .error e => .error e
  | _ => .error .truncated

/-- A word of the pattern `op x y n` (R81). -/
def wordXyn (op x y n : Nibble) : Word := op ++ x ++ y ++ n
/-- A word of the pattern `op x kk` (R81). -/
def wordXkk (op x : Nibble) (kk : Byte) : Word := op ++ x ++ kk
/-- A word of the pattern `op nnn` (R81). -/
def wordNnn (op : Nibble) (nnn : Addr) : Word := op ++ nnn
/-- A word of the pattern `op xy n` with the two register nibbles taken together (R140). -/
def wordXyTogether (op : Nibble) (xy : Byte) (n : Nibble) : Word := op ++ xy ++ n

/-- The word of an instruction (R84-R88). -/
def encode : Instr → Word
  | .cls ign => wordXkk 0x0 ign selectors.cls
  | .ret ign => wordXkk 0x0 ign selectors.ret
  | .scd ign n => wordXyn 0x0 ign selectors.scdHi n
  | .scr ign => wordXkk 0x0 ign selectors.scr
  | .scl ign => wordXkk 0x0 ign selectors.scl
  | .exit ign => wordXkk 0x0 ign selectors.exit
  | .low ign => wordXkk 0x0 ign selectors.low
  | .high ign => wordXkk 0x0 ign selectors.high
  | .jp nnn => wordNnn 0x1 nnn
  | .call nnn => wordNnn 0x2 nnn
  | .seVxKk x kk => wordXkk 0x3 x kk
  | .sneVxKk x kk => wordXkk 0x4 x kk
  | .seVxVy x y ign => wordXyn 0x5 x y ign
  | .ldVxKk x kk => wordXkk 0x6 x kk
  | .addVxKk x kk => wordXkk 0x7 x kk
  | .ldVxVy x y => wordXyn 0x8 x y selectors.move
  | .orVxVy x y => wordXyn 0x8 x y selectors.or
  | .andVxVy x y => wordXyn 0x8 x y selectors.and
  | .xorVxVy x y => wordXyn 0x8 x y selectors.xor
  | .addVxVy x y => wordXyn 0x8 x y selectors.add
  | .sub x y => wordXyn 0x8 x y selectors.sub
  | .shr x y => wordXyn 0x8 x y selectors.shr
  | .subn x y => wordXyn 0x8 x y selectors.subn
  | .shl x y => wordXyn 0x8 x y selectors.shl
  | .nop8x8 ign => wordXyTogether 0x8 ign 0x8
  | .nop8x9 ign => wordXyTogether 0x8 ign 0x9
  | .nop8xA ign => wordXyTogether 0x8 ign 0xA
  | .nop8xB ign => wordXyTogether 0x8 ign 0xB
  | .nop8xC ign => wordXyTogether 0x8 ign 0xC
  | .nop8xD ign => wordXyTogether 0x8 ign 0xD
  | .nop8xF ign => wordXyTogether 0x8 ign 0xF
  | .sneVxVy x y ign => wordXyn 0x9 x y ign
  | .ldINnn nnn => wordNnn 0xA nnn
  | .jpV0 nnn => wordNnn 0xB nnn
  | .rnd x kk => wordXkk 0xC x kk
  | .drw x y n => wordXyn 0xD x y n
  | .skp x => wordXkk 0xE x selectors.skp
  | .sknp x => wordXkk 0xE x selectors.sknp
  | .ldVxDt x => wordXkk 0xF x selectors.ldVxDt
  | .ldVxK x => wordXkk 0xF x selectors.ldVxK
  | .ldDtVx x => wordXkk 0xF x selectors.ldDtVx
  | .ldStVx x => wordXkk 0xF x selectors.ldStVx
  | .addIVx x => wordXkk 0xF x selectors.addIVx
  | .ldFVx x => wordXkk 0xF x selectors.ldFVx
  | .ldBVx x => wordXkk 0xF x selectors.ldBVx
  | .ldMiVx x => wordXkk 0xF x selectors.ldMiVx
  | .ldVxMi x => wordXkk 0xF x selectors.ldVxMi
  | .ldRVx x => wordXkk 0xF x selectors.ldRVx
  | .ldVxR x => wordXkk 0xF x selectors.ldVxR

/-- The two bytes of a word in the order memory holds them (R65). -/
def bytesOfWord (w : Word) : List Byte := [w.extractLsb' 8 8, w.extractLsb' 0 8]

/-- The bytes of an instruction in memory order. -/
def encodeBytes (i : Instr) : List Byte := bytesOfWord (encode i)

/-- The 16 bits of an instruction as spec/opcode_table.json numbers them: bit 0 is the least significant bit of the word;
bits above `nbits` are 0. -/
def tableWord (nbits w : Nat) : Word := BitVec.ofNat 16 (w % 2 ^ nbits)

/-- What the decoder reads from an instruction whose bits are `w`: the word's bytes are laid out as memory holds them and
given to `decodeBytes`. -/
def decodeTableWord (nbits w : Nat) : Option Instr :=
  match decodeBytes (bytesOfWord (tableWord nbits w)) with
  | .ok (i, _) => some i
  | .error _ => none

end Sys2Proof
end

