-- ==== Sys2Proof/Config.lean ====
section
/-! DEFINITION. Config.lean: the OPEN parameters of the block (spec/00_scope.md R7, second table; 92 D4, D5, D7, D9,
D10, D11) and the model's free values. A machine is built with one `Config`; State carries it and no step changes it
(log entry 1). -/

namespace Sys2Proof

/-- `ERR_POLICY` (R7, R232, D7): what happens after an error raised inside a step. -/
inductive ErrPolicy where
  /-- `Continue`: execution goes on at the next word. -/
  | continuing
  /-- `Halt`: `RUN` becomes `Halted`. -/
  | halting
  deriving DecidableEq, Repr

/-- `KEY_SELECT` (R7, R248, D10): which held key the key scan reports. -/
inductive KeySelect where
  | highest
  | lowest
  deriving DecidableEq, Repr

/-- The OPEN parameters of R7. Claims about every state are claims about every value of these. -/
structure Config where
  /-- `STACK_TOP` (R27, R28, D5). -/
  stackTop : Word
  /-- `STACK_DEPTH`, in entries of two bytes (R28, D5). -/
  stackDepth : Nat
  /-- `OPS_PER_SLICE` (R243, D9). -/
  opsPerSlice : Nat
  errPolicy : ErrPolicy
  keySelect : KeySelect
  /-- `EXT_FONT`, the 160 bytes that Load installs at 0x050 (R46, R75, D4). -/
  extFont : Vector Byte 160
  deriving DecidableEq, Repr

/-- The constraints a configuration must meet: R28's on the stack region, R7's `OPS_PER_SLICE` at least 1. -/
abbrev Config.Legal (c : Config) : Prop :=
  c.stackTop.toNat ≤ 0x0FFF ∧ 0x200 + 2 * c.stackDepth ≤ c.stackTop.toNat + 1 ∧ 1 ≤ c.opsPerSlice

/-- FREE VALUE: the bytes of `EXT_FONT`, for which the spec gives no value at all (R46, D4; log entry 3). -/
opaque Config.openExtFont : Vector Byte 160

/-- FREE VALUE: the byte of the `n`-th draw of the random source, under no law (R112, D11; log entry 4). -/
opaque Config.rngByte : Nat → Byte

end Sys2Proof
end

