-- ==== Sys2Proof/Machine/Params.lean ====
section
/-! DEFINITION. Machine/Params.lean: the fixed parameters of the block (spec/00_scope.md R7), the standard font
(spec/10_state.md R45) and the reference configuration. -/

namespace Sys2Proof.Machine

/-- `MEM_SIZE` (R7, R60). -/
def memSize : Nat := 4096
/-- `PROG_ORIGIN` (R7, R67). -/
def progOrigin : Nat := 0x200
/-- `FONT_BASE` (R7, R45). -/
def fontBase : Nat := 0x000
/-- `FONT_GLYPH`, bytes per standard glyph (R7). -/
def fontGlyph : Nat := 5
/-- `EXT_FONT_BASE` (R7, R46, D4). -/
def extFontBase : Nat := 0x050
/-- `EXT_FONT_GLYPH`, bytes per extended glyph (R7). -/
def extFontGlyph : Nat := 10
/-- `STD_W` (R7, R42, D2). -/
def stdW : Nat := 64
/-- `STD_H` (R7, R42, D2). -/
def stdH : Nat := 32
/-- `EXT_W`, also the width of the physical buffer (R7, R39, R42, D2). -/
def extW : Nat := 128
/-- `EXT_H`, also the height of the physical buffer (R7, R39, R42, D2). -/
def extH : Nat := 64
/-- `NKEYS` (R7). -/
def nKeys : Nat := 16

/-- Glyphs 0 to 7 of `FONT` (R45; the spec's general knowledge, log entry 16). -/
def fontLow : List Byte :=
  [0xF0, 0x90, 0x90, 0x90, 0xF0] ++ [0x20, 0x60, 0x20, 0x20, 0x70] ++
  [0xF0, 0x10, 0xF0, 0x80, 0xF0] ++ [0xF0, 0x10, 0xF0, 0x10, 0xF0] ++
  [0x90, 0x90, 0xF0, 0x10, 0x10] ++ [0xF0, 0x80, 0xF0, 0x10, 0xF0] ++
  [0xF0, 0x80, 0xF0, 0x90, 0xF0] ++ [0xF0, 0x10, 0x20, 0x40, 0x40]

/-- Glyphs 8 to F of `FONT` (R45). -/
def fontHigh : List Byte :=
  [0xF0, 0x90, 0xF0, 0x90, 0xF0] ++ [0xF0, 0x90, 0xF0, 0x10, 0xF0] ++
  [0xF0, 0x90, 0xF0, 0x90, 0x90] ++ [0xE0, 0x90, 0xE0, 0x90, 0xE0] ++
  [0xF0, 0x80, 0x80, 0x80, 0xF0] ++ [0xE0, 0x90, 0x90, 0x90, 0xE0] ++
  [0xF0, 0x80, 0xF0, 0x80, 0xF0] ++ [0xF0, 0x80, 0xF0, 0x80, 0x80]

/-- `FONT`, the 80 bytes at 0x000 (R45). -/
def font : List Byte := fontLow ++ fontHigh

/-- The reference configuration of R7; `EXT_FONT` has no reference value and stays open (D4). -/
def referenceConfig : Config where
  stackTop := 0x0FFF
  stackDepth := 16
  opsPerSlice := 10
  errPolicy := .continuing
  keySelect := .highest
  extFont := Config.openExtFont

end Sys2Proof.Machine
end

