-- ==== Sys2Proof/Machine/State.lean ====
section
/-! DEFINITION. Machine/State.lean: every piece of state of spec/10_state.md (R49's table) and the fetch latches of
spec/30_encoding.md R97, then the model's own fields; the reasons a step can stop; the state right after reset. -/

namespace Sys2Proof.Machine

/-- `MODE` (R35). -/
inductive Mode where
  /-- 0: standard, the 64 x 32 grid. -/
  | standard
  /-- 1: extended, the 128 x 64 grid. -/
  | extended
  deriving DecidableEq, Repr

/-- `RUN` (R36). -/
inductive RunState where
  | idle
  | running
  | halted
  deriving DecidableEq, Repr

/-- The reasons of R231. -/
inductive Reason where
  | none
  | unknownOpcode
  | stackOverflow
  | stackUnderflow
  | hostStop
  deriving DecidableEq, Repr

/-- The events the core emits to the host (R262). -/
inductive Event where
  | soundOn
  | soundOff
  | interruptTick
  | error (reason : Reason) (opcode pc : Word)
  deriving DecidableEq, Repr

/-- Where the execution driver stands in the slice loop of R243 (the model's own; log entry 11). -/
inductive Phase where
  /-- No slice is executing: the host may act. -/
  | between
  /-- A slice is executing, with `SLICE_LEFT` opcodes to go. -/
  | inSlice
  deriving DecidableEq, Repr

/-- What the host can do between slices (R69, R262; log entry 12). -/
inductive HostMove where
  /-- `Load(image)` (R75). -/
  | load (image : List Byte)
  /-- `Reset()` (R280). -/
  | reset
  /-- `Stop()` (R249). -/
  | stop
  /-- `Slice()` (R243). -/
  | slice
  /-- A write of `KEYS` (R34, R69). -/
  | writeKeys (keys : BitVec 16)
  deriving DecidableEq, Repr

/-- One row of the physical display buffer: bit `c` stands for the byte at column `c`, 1 for 0xFF and 0 for 0x00 (R39;
log entry 10). -/
abbrev Row := BitVec 128

/-- `PHYS`, 64 rows, row 0 at the top (R39). -/
abbrev Phys := Vector Row 64

/-- Why a step stops with a fault. -/
inductive Fault where
  /-- Raised by the fetch of a step when no `Reset` has happened since power-on: `PC` and every register an instruction could read
  are unspecified until then, and reading one is a fault of the model (R284, D34, 93 part 1 row 11; log entry 7). SAFE: the model
  stops where the spec gives no value. -/
  | neverReset
  /-- Raised by the fetch of a step when no `Load` has happened since power-on: `MEM` is unspecified until `Load`, and reading
  it is a fault of the model (R284, 93 part 1 row 12). SAFE: the model stops where the spec gives no value. -/
  | memoryNeverLoaded
  deriving DecidableEq, Repr

/-- Why a step refuses. -/
inductive Refusal where
  /-- Raised by an arm of `exec` that has no meaning yet, under the row's mnemonic. SAFE: nothing is claimed of it. No arm
  raises it now. -/
  | notModelled (mnemonic : String)
  /-- Raised by `step` for a configuration that breaks R28's constraints or has `OPS_PER_SLICE = 0` (93 part 1 rows 2 and 7).
  SAFE: no such machine exists. -/
  | illegalConfiguration
  deriving DecidableEq, Repr

/-- The machine's state. -/
structure State where
  /-- `V0`..`VF` (R20). -/
  v : Vector Byte 16
  /-- `I` (R25). -/
  idx : Word
  /-- `PC` (R23). -/
  pc : Word
  /-- `SP` (R27). -/
  sp : Word
  /-- `DT` (R30). -/
  dt : Byte
  /-- `ST` (R31). -/
  st : Byte
  /-- `SOUND` (R32). -/
  sound : Bool
  /-- `MODE` (R35). -/
  mode : Mode
  /-- `PHYS` (R39). -/
  phys : Phys
  /-- `RPL[0..7]` (R33). -/
  rpl : Vector Byte 8
  /-- `MEM[0..4095]` (R47, R60), in canonical form (`Memory.wf`). -/
  mem : List Host.Cell
  /-- `KEYS[0..15]`, bit `k` for key `k` (R34). -/
  keys : BitVec 16
  /-- `PREV_KEYS[0..15]` (R38). -/
  prevKeys : BitVec 16
  /-- `KJP_VALID` (R38). -/
  kjpValid : Bool
  /-- `KJP_KEY` (R38). -/
  kjpKey : Nibble
  /-- `RUN` (R36). -/
  run : RunState
  /-- `ERR_REASON` (R37). -/
  errReason : Reason
  /-- `ERR_OPCODE` (R37). -/
  errOpcode : Word
  /-- `ERR_PC` (R37). -/
  errPc : Word
  /-- `SLICE_LEFT` (R44). -/
  sliceLeft : Nat
  /-- `IA`, the address of the instruction of this step (R97). -/
  ia : Word
  /-- `IR`, the word of the instruction of this step (R97). -/
  ir : Word
  /-- MODEL: the OPEN parameters (R7), never written (log entry 1). -/
  cfg : Config
  /-- MODEL: the position in R243's loop (log entry 11). -/
  phase : Phase
  /-- MODEL: `Load` has happened since power-on (R284; log entry 6). -/
  loaded : Bool
  /-- MODEL: `Reset` has happened since power-on (R284; log entry 7). -/
  wasReset : Bool
  /-- MODEL: the number of random draws so far (R112; log entry 4). -/
  draws : Nat
  /-- MODEL: the events this step emitted, in order (R262; log entry 13). -/
  events : List Event
  /-- MODEL: the host's coming moves between slices (R69; log entry 12). -/
  hostMoves : List HostMove
  /-- MODEL: the host's coming writes of `KEYS` inside `interrupt_tick`, one entry a callback (R247; log entry 12). -/
  hookKeys : List (Option (BitVec 16))
  deriving DecidableEq, Repr

/-- What an instruction or a step answers. -/
abbrev Result := Host.Outcome State Fault Refusal

/-- The machine right after reset: what `Load` of an empty image and `Reset` leave, in either order, from power-on, at the
reference configuration (R49, R75, R280, R285; log entries 1, 4, 5, 8, 9, 11, 12, 13). -/
def State.reset : State where
  v := Vector.replicate 16 0
  idx := 0x0000
  pc := 0x0200
  sp := referenceConfig.stackTop
  dt := 0x00
  st := 0x00
  sound := false
  mode := .standard
  phys := Vector.replicate 64 0
  rpl := Vector.replicate 8 0
  mem := []
  keys := 0
  prevKeys := 0
  kjpValid := false
  kjpKey := 0
  run := .running
  errReason := .none
  errOpcode := 0
  errPc := 0
  sliceLeft := 0
  ia := 0
  ir := 0
  cfg := referenceConfig
  phase := .between
  loaded := true
  wasReset := true
  draws := 0
  events := [.soundOff]
  hostMoves := []
  hookKeys := []

/-- Power-on, before any `Load` or `Reset` (R284): `RUN` is `Idle`, `RPL` is all 0x00, and neither `Load` nor `Reset` has happened.
Every other item of R49 is unspecified: it is FREE, taken from the argument `u`, so that a statement for every `u` holds whatever
stands there. An instruction that would read one is a fault (`Fault.neverReset`, `Fault.memoryNeverLoaded`). The configuration and
the host's coming moves are those of `u` too (log entry 7). -/
def State.powerOn (u : State) : State :=
  { u with
    rpl := Vector.replicate 8 0x00
    run := .idle
    phase := .between
    loaded := false
    wasReset := false
    events := [] }

end Sys2Proof.Machine
end

