-- ==== Sys2Proof/Machine/Display.lean ====
section
/-! DEFINITION. Machine/Display.lean: the display buffer and the logical grid (spec/10_state.md R39-R43, and the rewriting of
the whole grid that spec/43_system_display.md R188 asks of a scroll). -/

namespace Sys2Proof.Machine

/-- `W`, the width of the logical grid (R42). -/
def gridW : Mode → Nat
  | .standard => stdW
  | .extended => extW

/-- `H`, the height of the logical grid (R42). -/
def gridH : Mode → Nat
  | .standard => stdH
  | .extended => extH

/-- Row `r` of the physical buffer; there is nothing outside it. -/
def rowAt (p : Phys) (r : Nat) : Row := p[r]?.getD 0

/-- Whether the byte `PHYS[r][c]` is 0xFF (R39). -/
def physLit (p : Phys) (r c : Nat) : Bool := (rowAt p r).getLsbD c

/-- The byte `PHYS[r][c]` as the host reads it (R39). -/
def physByte (p : Phys) (r c : Nat) : Byte := if physLit p r c then 0xFF else 0x00

/-- A row with the byte at column `c` written. -/
def rowSet (row : Row) (c : Nat) (b : Bool) : Row :=
  if b then row ||| (1#128 <<< c) else row &&& ~~~(1#128 <<< c)

/-- `PHYS[r][c] <- (b ? 0xFF : 0x00)` (R41). -/
def setCell (p : Phys) (r c : Nat) (b : Bool) : Phys :=
  p.setIfInBounds r (rowSet (rowAt p r) c b)

/-- `Pix(c, r)`, the logical pixel (R40). -/
def pix (m : Mode) (p : Phys) (c r : Nat) : Bool :=
  match m with
  | .extended => physLit p r c
  | .standard => physLit p (2 * r) (2 * c)

/-- `SetPix(c, r, b)`: one cell in extended mode, a 2x2 block in standard mode (R41). -/
def setPix (m : Mode) (p : Phys) (c r : Nat) (b : Bool) : Phys :=
  match m with
  | .extended => setCell p r c b
  | .standard =>
    setCell (setCell (setCell (setCell p (2 * r) (2 * c) b) (2 * r) (2 * c + 1) b) (2 * r + 1) (2 * c) b)
      (2 * r + 1) (2 * c + 1) b

/-- Every byte of `PHYS` 0x00 (R43). -/
def darkPhys : Phys := Vector.replicate 64 0

/-- The row whose bit `c` is `f c`, for the columns below `n`. -/
def rowOf (f : Nat → Bool) : Nat → Row
  | 0 => 0
  | n + 1 => rowSet (rowOf f n) n (f n)

/-- The buffer whose byte at row `r`, column `c` is `f r c`. -/
def physOf (f : Nat → Nat → Bool) : Phys := Vector.ofFn fun r => rowOf (f r) extW

/-- The buffer after every logical pixel has been rewritten with `SetPix(c, r, new c r)` (R188, R41). The logical grid covers the
whole buffer in both modes, so the rewriting leaves nothing of what was there. -/
def rewriteGrid (m : Mode) (new : Nat → Nat → Bool) : Phys :=
  match m with
  | .extended => physOf fun r c => new c r
  | .standard => physOf fun r c => new (c / 2) (r / 2)

end Sys2Proof.Machine
end

