-- ==== Sys2Proof/Machine/Ops.lean ====
section
/-! DEFINITION. Machine/Ops.lean: the named operations over registers, memory, the stack, the error channel and reset
(spec/00_scope.md R11's primitives). -/

namespace Sys2Proof.Machine

/-! ### Codes of the status registers, as the host reads them -/

/-- `MODE` as a bit (R35). -/
def Mode.code : Mode → BitVec 1
  | .standard => 0
  | .extended => 1

/-- `RUN` as two bits (R36). -/
def RunState.code : RunState → BitVec 2
  | .idle => 0
  | .running => 1
  | .halted => 2

/-- `ERR_REASON` as three bits (R231). -/
def Reason.code : Reason → BitVec 3
  | .none => 0
  | .unknownOpcode => 1
  | .stackOverflow => 2
  | .stackUnderflow => 3
  | .hostStop => 4

/-! ### Registers -/

/-- `V[x]` (R20). -/
def getV (s : State) (x : Nibble) : Byte := s.v[x.toNat]'x.isLt

/-- `V[x] <- b` (R20). -/
def setV (s : State) (x : Nibble) (b : Byte) : State := { s with v := s.v.set x.toNat b x.isLt }

/-- `V[x] <- r`, then `VF <- f`: the flag is written last, so it wins where `x = F` (R12, R130). -/
def setVFlag (s : State) (x : Nibble) (r f : Byte) : State := setV (setV s x r) 0xF f

/-- `pc <- t` (R24). -/
def setPc (s : State) (t : Nat) : State := { s with pc := BitVec.ofNat 16 (t % memSize) }

/-- `RPL[i]` (R33). -/
def getRpl (s : State) (i : Nat) : Byte := s.rpl[i]?.getD 0

/-- `RPL[i] <- b` (R33). -/
def setRpl (s : State) (i : Nat) (b : Byte) : State := { s with rpl := s.rpl.setIfInBounds i b }

/-! ### Memory -/

/-- What an address that no cell lists reads as: what `Load` of an empty image leaves there (R75, R67), the fonts at their places and
zero elsewhere (log entry 5). -/
def unlisted (c : Config) (a : Nat) : Byte :=
  if a < fontBase + 80 then font.getD (a - fontBase) 0
  else if extFontBase ≤ a ∧ a < extFontBase + 160 then c.extFont[a - extFontBase]?.getD 0
  else 0

/-- The byte the cells hold at `a`. -/
def cellsRead (c : Config) : List Host.Cell → Nat → Byte
  | [], a => unlisted c a
  | (k, b) :: rest, a => if k = a then b else cellsRead c rest a

/-- A cell put in front, but for one that says no more than an unlisted address does. -/
def consCell (c : Config) (a : Nat) (b : Byte) (rest : List Host.Cell) : List Host.Cell :=
  if b = unlisted c a then rest else (a, b) :: rest

/-- The cells after the byte `b` is written at `a`, in the canonical form. -/
def cellsWrite (c : Config) : List Host.Cell → Nat → Byte → List Host.Cell
  | [], a, b => consCell c a b []
  | (k, w) :: rest, a, b =>
    if a < k then consCell c a b ((k, w) :: rest)
    else if a = k then consCell c a b rest
    else (k, w) :: cellsWrite c rest a b

/-- The canonical form from address `lo` on: addresses strictly rising and below 4096, and no cell that says what an unlisted address
does. -/
def Memory.wfFrom (c : Config) : Nat → List Host.Cell → Bool
  | _, [] => true
  | lo, (a, b) :: rest =>
    decide (lo ≤ a) && decide (a < memSize) && decide (b ≠ unlisted c a) && Memory.wfFrom c (a + 1) rest

/-- The canonical form of a memory: equal memories are equal lists. -/
def Memory.wf (c : Config) (m : List Host.Cell) : Bool := Memory.wfFrom c 0 m

/-- `MemRead(a, 1)` for any natural number `a` (R61). -/
def memRead (s : State) (a : Nat) : Byte := cellsRead s.cfg s.mem (a % memSize)

/-- `MemWrite(a, 1, b)` for any natural number `a` (R62). -/
def memWrite (s : State) (a : Nat) (b : Byte) : State :=
  { s with mem := cellsWrite s.cfg s.mem (a % memSize) b }

/-- Bytes written at `a`, `a + 1`, ... in that order (R63). -/
def memWriteBytes (s : State) (a : Nat) : List Byte → State
  | [] => s
  | b :: rest => memWriteBytes (memWrite s a b) (a + 1) rest

/-! ### The stack (R27, R28) -/

/-- The `SP` of a full stack, `STACK_TOP - 2*STACK_DEPTH` (R28). -/
def stackFull (c : Config) : Word := c.stackTop - BitVec.ofNat 16 (2 * c.stackDepth)

/-- A push: high byte at `SP`, then low byte at `SP - 1`, then `SP <- SP - 2` (R27, R102). -/
def push (s : State) (w : Word) : State :=
  let s1 := memWrite s s.sp.toNat (w.extractLsb' 8 8)
  let s2 := memWrite s1 (s.sp - 1).toNat (w.extractLsb' 0 8)
  { s2 with sp := s.sp - 2 }

/-- The word a pop reads: low byte at `SP + 1`, high byte at `SP + 2` (R27, R181). -/
def popped (s : State) : Word :=
  memRead s (s.sp.toNat + 2) ++ memRead s (s.sp.toNat + 1)

/-! ### Events and the error channel -/

/-- `emit E` (R11, R262). -/
def emit (s : State) (e : Event) : State := { s with events := s.events ++ [e] }

/-- `RUN` after an error raised inside a step (R232, R242). -/
def runAfterError (s : State) : RunState :=
  match s.cfg.errPolicy with
  | .halting => .halted
  | .continuing => s.run

/-- `raise Error(reason)` inside a step (R232): what this core has in place of taking an exception (R230). There is no return from it
(R239). -/
def raiseError (s : State) (reason : Reason) : State :=
  let s1 := emit { s with errReason := reason, errOpcode := s.ir, errPc := s.ia } (.error reason s.ir s.ia)
  { s1 with run := runAfterError s }

/-! ### Reset -/

/-- `emit sound_off`, which also sets `SOUND <- 0` (R32, R246, R283). -/
def soundOff (s : State) : State := emit { s with sound := false } .soundOff

/-- `emit sound_on`, which also sets `SOUND <- 1` (R32, R153). -/
def soundOn (s : State) : State := emit { s with sound := true } .soundOn

/-- `Reset()` (R280). `MEM`, `RPL` and `SLICE_LEFT` are kept (R282), and so is all that belongs to the model or the host, but for the
record that a reset has happened (R284; log entry 7). -/
def doReset (s : State) : State :=
  { soundOff s with
    v := Vector.replicate 16 0
    idx := 0x0000
    pc := BitVec.ofNat 16 progOrigin
    sp := s.cfg.stackTop
    dt := 0x00
    st := 0x00
    mode := .standard
    phys := darkPhys
    keys := 0
    prevKeys := 0
    kjpValid := false
    kjpKey := 0
    errReason := .none
    errOpcode := 0
    errPc := 0
    run := .running
    wasReset := true }

end Sys2Proof.Machine
end

