-- ==== Sys2Proof/Machine/Operands.lean ====
section
/-! DEFINITION. Machine/Operands.lean: the operand forms of the instruction set: what a field of the word stands for, where a form
reads and which registers a block form names. Immediates are unsigned (R93). -/

namespace Sys2Proof.Machine

/-- `Skip()`: over the next word (R100). -/
def skip (s : State) : State := setPc s (s.pc.toNat + 2)

/-- `if b: Skip()`. -/
def skipIf (b : Bool) (s : State) : State := if b then skip s else s

/-- The effective address `I + k`, before the reduction that every access makes (R25, R64). -/
def idxPlus (s : State) (k : Nat) : Nat := s.idx.toNat + k

/-- The registers `V0..Vx` of a block form, `V0` first (R157-R160). -/
def blockRegs (x : Nibble) : List Nat := List.range (x.toNat + 1)

/-- The register named by a position of a block form. -/
def regOf (i : Nat) : Nibble := BitVec.ofNat 4 i

/-- The low nibble of a register's value: a glyph (R155) or a key (R222). -/
def lowNibble (b : Byte) : Nibble := b.extractLsb' 0 4

/-- The address of the glyph of digit `d` (R155, D25). -/
def glyphAddr (m : Mode) (d : Nibble) : Nat :=
  match m with
  | .standard => d.toNat * fontGlyph + fontBase
  | .extended => d.toNat * extFontGlyph + extFontBase

/-- `KEYS[V[x] & 0x0F]` (R222). -/
def keyHeld (s : State) (x : Nibble) : Bool := s.keys.getLsbD (lowNibble (getV s x)).toNat

/-- The decimal digits of a byte, hundreds first (R156). -/
def bcdDigits (b : Byte) : List Byte :=
  [BitVec.ofNat 8 (b.toNat / 100), BitVec.ofNat 8 (b.toNat / 10 % 10), BitVec.ofNat 8 (b.toNat % 10)]

/-- The geometry of a draw (R202). -/
structure Geometry where
  rows : Nat
  width : Nat
  /-- Bytes per row of the sprite. -/
  bpr : Nat
  deriving DecidableEq, Repr

/-- `geometry(MODE, n)` (R202). In standard mode a count of 0 draws nothing (D23). -/
def geometry (m : Mode) (n : Nibble) : Geometry :=
  match m with
  | .extended => if n = 0 then ⟨16, 16, 2⟩ else ⟨n.toNat, 8, 1⟩
  | .standard => ⟨n.toNat, 8, 1⟩

/-- The sprite's bit at row `r`, column `c`: bit 7 of a byte is its leftmost pixel (R200, R201). -/
def spriteBit (s : State) (g : Geometry) (r c : Nat) : Bool :=
  (memRead s (idxPlus s (r * g.bpr + c / 8))).getLsbD (7 - c % 8)

end Sys2Proof.Machine
end

