-- ==== Sys2Proof/Machine/Flags.lean ====
section
/-! DEFINITION. Machine/Flags.lean: every flag the spec computes, as the byte written to `VF` (spec/41_alu.md R135-R141,
spec/44_sprite_draw.md R203). -/

namespace Sys2Proof.Machine

/-- A flag as a byte: 1 or 0. -/
def flagByte (b : Bool) : Byte := if b then 1 else 0

/-- Carry of an addition: the sum is at least 256 (R135, R141). -/
def carryFlag (a b : Byte) : Byte := flagByte (decide (256 ≤ a.toNat + b.toNat))

/-- "Not borrow" of `a - b`: the minuend is at least the subtrahend (R136, R138, R141, D18). -/
def notBorrowFlag (a b : Byte) : Byte := flagByte (decide (b.toNat ≤ a.toNat))

/-- The bit a right shift by one drops, bit 0 (R137). -/
def shrOutFlag (a : Byte) : Byte := flagByte (a.getLsbD 0)

/-- The bit a left shift by one drops, bit 7 (R139). -/
def shlOutFlag (a : Byte) : Byte := flagByte (a.getLsbD 7)

/-- `VF` after a draw: 1 is no collision (R203, C1). -/
def noCollisionFlag (hit : Bool) : Byte := flagByte (!hit)

end Sys2Proof.Machine
end

