-- ==== Sys2Proof/Machine/Alu.lean ====
section
/-! DEFINITION. Machine/Alu.lean: family 8, the arithmetic/logic instructions (spec/41_alu.md). Both operands are read before
anything is written, and `VF` is written last (R130). -/

namespace Sys2Proof.Machine

/-- LD Vx, Vy (R131). -/
def execLdVxVy (x y : Nibble) (s : State) : Result := .next (setV s x (getV s y))

/-- OR Vx, Vy (R132). -/
def execOr (x y : Nibble) (s : State) : Result := .next (setV s x (getV s x ||| getV s y))

/-- AND Vx, Vy (R133). -/
def execAnd (x y : Nibble) (s : State) : Result := .next (setV s x (getV s x &&& getV s y))

/-- XOR Vx, Vy (R134). -/
def execXor (x y : Nibble) (s : State) : Result := .next (setV s x (getV s x ^^^ getV s y))

/-- ADD Vx, Vy (R135). -/
def execAddVxVy (x y : Nibble) (s : State) : Result :=
  .next (setVFlag s x (getV s x + getV s y) (carryFlag (getV s x) (getV s y)))

/-- SUB Vx, Vy (R136). -/
def execSub (x y : Nibble) (s : State) : Result :=
  .next (setVFlag s x (getV s x - getV s y) (notBorrowFlag (getV s x) (getV s y)))

/-- SHR Vx (R137): the second operand is ignored. -/
def execShr (x : Nibble) (s : State) : Result :=
  .next (setVFlag s x (getV s x >>> 1) (shrOutFlag (getV s x)))

/-- SUBN Vx, Vy (R138). -/
def execSubn (x y : Nibble) (s : State) : Result :=
  .next (setVFlag s x (getV s y - getV s x) (notBorrowFlag (getV s y) (getV s x)))

/-- SHL Vx (R139): the second operand is ignored. -/
def execShl (x : Nibble) (s : State) : Result :=
  .next (setVFlag s x (getV s x <<< 1) (shlOutFlag (getV s x)))

/-- Nothing beyond the advance of `PC` (R140). -/
def noOperation (s : State) : Result := .next s

/-- NOP8, `8xy8` (R140). -/
def execNop8x8 (s : State) : Result := noOperation s

/-- NOP8, `8xy9` (R140). -/
def execNop8x9 (s : State) : Result := noOperation s

/-- NOP8, `8xyA` (R140). -/
def execNop8xA (s : State) : Result := noOperation s

/-- NOP8, `8xyB` (R140). -/
def execNop8xB (s : State) : Result := noOperation s

/-- NOP8, `8xyC` (R140). -/
def execNop8xC (s : State) : Result := noOperation s

/-- NOP8, `8xyD` (R140). -/
def execNop8xD (s : State) : Result := noOperation s

/-- NOP8, `8xyF` (R140). -/
def execNop8xF (s : State) : Result := noOperation s

end Sys2Proof.Machine
end

