-- ==== Sys2Proof/Machine/Control.lean ====
section
/-! DEFINITION. Machine/Control.lean: control transfer, skips, immediates, index and random, families 1-7, 9, A, B and C
(spec/40_control_immediate.md). -/

namespace Sys2Proof.Machine

/-- JP nnn (R101). -/
def execJp (nnn : Addr) (s : State) : Result := .next (setPc s nnn.toNat)

/-- CALL nnn (R102): the check stands before any write; a full stack raises `StackOverflow` (R234). -/
def execCall (nnn : Addr) (s : State) : Result :=
  if s.sp = stackFull s.cfg then .next (raiseError s .stackOverflow)
  else .next (setPc (push s s.pc) nnn.toNat)

/-- SE Vx, kk (R103). -/
def execSeVxKk (x : Nibble) (kk : Byte) (s : State) : Result := .next (skipIf (getV s x == kk) s)

/-- SNE Vx, kk (R104). -/
def execSneVxKk (x : Nibble) (kk : Byte) (s : State) : Result := .next (skipIf (getV s x != kk) s)

/-- SE Vx, Vy (R105). -/
def execSeVxVy (x y : Nibble) (s : State) : Result := .next (skipIf (getV s x == getV s y) s)

/-- LD Vx, kk (R106). -/
def execLdVxKk (x : Nibble) (kk : Byte) (s : State) : Result := .next (setV s x kk)

/-- ADD Vx, kk (R107): the sum wraps mod 256 and no flag is written. -/
def execAddVxKk (x : Nibble) (kk : Byte) (s : State) : Result := .next (setV s x (getV s x + kk))

/-- SNE Vx, Vy (R108). -/
def execSneVxVy (x y : Nibble) (s : State) : Result := .next (skipIf (getV s x != getV s y) s)

/-- LD I, nnn (R109). -/
def execLdINnn (nnn : Addr) (s : State) : Result := .next { s with idx := nnn.setWidth 16 }

/-- JP V0, nnn (R110). -/
def execJpV0 (nnn : Addr) (s : State) : Result := .next (setPc s (nnn.toNat + (getV s 0).toNat))

/-- RND Vx, kk (R111): the byte drawn is a free value, and the next draw is another one (R112; log entry 4). -/
def execRnd (x : Nibble) (kk : Byte) (s : State) : Result :=
  .next (setV { s with draws := s.draws + 1 } x (Config.rngByte s.draws &&& kk))

end Sys2Proof.Machine
end

