-- ==== Sys2Proof/Machine/KeySkip.lean ====
section
/-! DEFINITION. Machine/KeySkip.lean: family E, the key-state skips (spec/45_key_skip.md). -/

namespace Sys2Proof.Machine

/-- SKP Vx (R220). -/
def execSkp (x : Nibble) (s : State) : Result := .next (skipIf (keyHeld s x) s)

/-- SKNP Vx (R221). -/
def execSknp (x : Nibble) (s : State) : Result := .next (skipIf (!keyHeld s x) s)

end Sys2Proof.Machine
end

