-- ==== Sys2Proof/Machine/Misc.lean ====
section
/-! DEFINITION. Machine/Misc.lean: family F, timers, index, BCD, register blocks and flag storage (spec/42_misc_f.md). None
writes `VF` as a flag, and none changes `I` but ADD I and LD F (D19). -/

namespace Sys2Proof.Machine

/-- LD Vx, DT (R150). -/
def execLdVxDt (x : Nibble) (s : State) : Result := .next (setV s x s.dt)

/-- LD Vx, K (R151): the signal is not consumed (D28), and without one `PC` goes back to this instruction. -/
def execLdVxK (x : Nibble) (s : State) : Result :=
  if s.kjpValid then .next (setV s x (s.kjpKey.setWidth 8))
  else .next (setPc s (s.pc - 2).toNat)

/-- LD DT, Vx (R152). -/
def execLdDtVx (x : Nibble) (s : State) : Result := .next { s with dt := getV s x }

/-- LD ST, Vx (R153): `sound_on` at every nonzero write, nothing at a zero write (D27). -/
def execLdStVx (x : Nibble) (s : State) : Result :=
  if getV s x = 0 then .next { s with st := getV s x }
  else .next (soundOn { s with st := getV s x })

/-- ADD I, Vx (R154): wraps mod 65536, no flag (D20). -/
def execAddIVx (x : Nibble) (s : State) : Result :=
  .next { s with idx := s.idx + (getV s x).setWidth 16 }

/-- LD F, Vx (R155). -/
def execLdFVx (x : Nibble) (s : State) : Result :=
  .next { s with idx := BitVec.ofNat 16 (glyphAddr s.mode (lowNibble (getV s x))) }

/-- LD B, Vx (R156): three bytes from `I`, hundreds first. -/
def execLdBVx (x : Nibble) (s : State) : Result :=
  .next (memWriteBytes s (idxPlus s 0) (bcdDigits (getV s x)))

/-- LD [I], Vx (R157): `V0..Vx` to `I..I+x`, `V0` first. -/
def execLdMiVx (x : Nibble) (s : State) : Result :=
  .next (memWriteBytes s (idxPlus s 0) ((blockRegs x).map fun i => getV s (regOf i)))

/-- LD Vx, [I] (R158): `V0..Vx` from `I..I+x`, `V0` first. -/
def execLdVxMi (x : Nibble) (s : State) : Result :=
  .next ((blockRegs x).foldl (fun t i => setV t (regOf i) (memRead s (idxPlus s i))) s)

/-- LD R, Vx (R159). A term with `x` above 7 stands for no instruction: its word is an unknown opcode (R90; log entry 17). -/
def execLdRVx (x : Nibble) (s : State) : Result :=
  if x.toNat ≤ 7 then .next ((blockRegs x).foldl (fun t i => setRpl t i (getV s (regOf i))) s)
  else .next (raiseError s .unknownOpcode)

/-- LD Vx, R (R160). A term with `x` above 7 stands for no instruction: its word is an unknown opcode (R90; log entry 17). -/
def execLdVxR (x : Nibble) (s : State) : Result :=
  if x.toNat ≤ 7 then .next ((blockRegs x).foldl (fun t i => setV t (regOf i) (getRpl s i)) s)
  else .next (raiseError s .unknownOpcode)

end Sys2Proof.Machine
end

