-- ==== Sys2Proof/Machine/Sprite.lean ====
section
/-! DEFINITION. Machine/Sprite.lean: family D, the sprite draw (spec/44_sprite_draw.md), loop for loop as R200 writes it. -/

namespace Sys2Proof.Machine

/-- What a draw carries from pixel to pixel: the buffer, and `hit`. -/
structure Drawing where
  phys : Phys
  hit : Bool
  deriving DecidableEq, Repr

/-- One sprite bit at row `r`, column `c`: a set bit toggles the pixel, and a lit pixel toggled is a hit (R200). -/
def drawBit (s : State) (g : Geometry) (x0 y0 r : Nat) (d : Drawing) (c : Nat) : Drawing :=
  if spriteBit s g r c then
    let px := (x0 + c) % gridW s.mode
    let lit := pix s.mode d.phys px (y0 + r)
    ⟨setPix s.mode d.phys px (y0 + r) (!lit), d.hit || lit⟩
  else d

/-- One sprite row: a row past the bottom edge is skipped, not wrapped (R200). -/
def drawRow (s : State) (g : Geometry) (x0 y0 : Nat) (d : Drawing) (r : Nat) : Drawing :=
  if gridH s.mode ≤ y0 + r then d
  else (List.range g.width).foldl (drawBit s g x0 y0 r) d

/-- The whole sprite, row by row (R200). -/
def drawSprite (s : State) (g : Geometry) (x0 y0 : Nat) : Drawing :=
  (List.range g.rows).foldl (drawRow s g x0 y0) ⟨s.phys, false⟩

/-- DRW Vx, Vy, n (R200): the coordinates are masked to the grid, and `VF` is written last (R203). -/
def execDrw (x y n : Nibble) (s : State) : Result :=
  let d := drawSprite s (geometry s.mode n) ((getV s x).toNat % gridW s.mode) ((getV s y).toNat % gridH s.mode)
  .next (setV { s with phys := d.phys } 0xF (noCollisionFlag d.hit))

end Sys2Proof.Machine
end

