-- ==== Sys2Proof/Machine/System.lean ====
section
/-! DEFINITION. Machine/System.lean: family 0, the system and display-control instructions (spec/43_system_display.md). In every
meaning of this folder `PC` is the already-advanced value `(IA + 2) mod 4096` (spec/30_encoding.md R83). -/

namespace Sys2Proof.Machine

/-- `ClearDisplay()` (R43). -/
def clearDisplay (s : State) : State := { s with phys := darkPhys }

/-- A scroll: every logical pixel rewritten from a snapshot of the grid (R188). -/
def scroll (s : State) (new : (Nat → Nat → Bool) → Nat → Nat → Bool) : State :=
  { s with phys := rewriteGrid s.mode (new (pix s.mode s.phys)) }

/-- SCD's new pixel: the one `n` rows above, or dark (R182). -/
def scrolledDown (n : Nat) (old : Nat → Nat → Bool) (c r : Nat) : Bool :=
  if n ≤ r then old c (r - n) else false

/-- SCR's new pixel: the one 4 columns to the left, or dark (R183). -/
def scrolledRight (old : Nat → Nat → Bool) (c r : Nat) : Bool :=
  if 4 ≤ c then old (c - 4) r else false

/-- SCL's new pixel: the one 4 columns to the right, or dark (R184). -/
def scrolledLeft (w : Nat) (old : Nat → Nat → Bool) (c r : Nat) : Bool :=
  if c + 4 < w then old (c + 4) r else false

/-- A switch of the display mode, which clears the display even where the mode was already in effect (R186, R187, D38). -/
def switchMode (s : State) (m : Mode) : State := clearDisplay { s with mode := m }

/-- CLS (R180). -/
def execCls (s : State) : Result := .next (clearDisplay s)

/-- RET (R181): the popped word is reduced mod 4096; an empty stack raises `StackUnderflow` (R235). -/
def execRet (s : State) : Result :=
  if s.sp = s.cfg.stackTop then .next (raiseError s .stackUnderflow)
  else .next (setPc { s with sp := s.sp + 2 } (popped s).toNat)

/-- SCD n (R182). -/
def execScd (n : Nibble) (s : State) : Result := .next (scroll s (scrolledDown n.toNat))

/-- SCR (R183). -/
def execScr (s : State) : Result := .next (scroll s scrolledRight)

/-- SCL (R184). -/
def execScl (s : State) : Result := .next (scroll s (scrolledLeft (gridW s.mode)))

/-- EXIT (R185). -/
def execExit (s : State) : Result := .next (doReset s)

/-- LOW (R186). -/
def execLow (s : State) : Result := .next (switchMode s .standard)

/-- HIGH (R187). -/
def execHigh (s : State) : Result := .next (switchMode s .extended)

end Sys2Proof.Machine
end

