-- ==== Sys2Proof/Machine/Driver.lean ====
section
/-! DEFINITION. Machine/Driver.lean: the fetch and the step (spec/30_encoding.md R82, R83, R96), the host's operations
(spec/20_memory.md R75, spec/60_exceptions.md R249, R262), the end-of-slice sequence (R245-R248) and the slice driver (R243), as one
operation and as one small step of it. -/

namespace Sys2Proof.Machine

/-! ### One instruction (R96) -/

/-- The word at an address and the next, big-endian (R65, R82). -/
def memWord (s : State) (a : Nat) : Word := wordOfBytes (memRead s a) (memRead s (a + 1))

/-- The fetch, then the advance of `PC` before any dispatch (R82, R83). -/
def fetch (s : State) : State :=
  setPc { s with ia := s.pc, ir := memWord s s.pc.toNat } (s.pc.toNat + 2)

/-- `Step()` (R96): fetch, advance, dispatch; a word that is no instruction raises `UnknownOpcode` (R90, R233). The fetch reads `PC` and
then memory, and before the `Reset` or the `Load` that gives them a value this is a fault (R284, R285). -/
def runInstr (s : State) : Result :=
  if s.wasReset then
    if s.loaded then
      match decode (fetch s).ir with
      | .ok i => exec i (fetch s)
      | .error _ => .next (raiseError (fetch s) .unknownOpcode)
    else .fault .memoryNeverLoaded
  else .fault .neverReset

/-! ### The end of a slice (R245) -/

/-- The delay timer falls by one while nonzero (R245, R251). -/
def tickDelay (s : State) : State := if s.dt = 0 then s else { s with dt := s.dt - 1 }

/-- `SoundTick()` (R246): `sound_off` exactly on the countdown from 1 to 0. -/
def tickSound (s : State) : State :=
  if s.st = 0 then s
  else if s.st - 1 = 0 then soundOff { s with st := s.st - 1 }
  else { s with st := s.st - 1 }

/-- `emit interrupt_tick` and what the host does inside the callback: it may write `KEYS` (R247; log entry 12). -/
def interruptTick (s : State) : State :=
  let t := emit s .interruptTick
  match t.hookKeys with
  | [] => t
  | none :: rest => { t with hookKeys := rest }
  | some k :: rest => { t with hookKeys := rest, keys := k }

/-- The held keys, lowest first. -/
def heldKeys (k : BitVec 16) : List Nat := (List.range nKeys).filter fun i => k.getLsbD i

/-- The key that the scan reports of a nonempty held set (R248, D10). -/
def selectKey (sel : KeySelect) (k : BitVec 16) : Nibble :=
  match sel with
  | .highest => BitVec.ofNat 4 ((heldKeys k).getLastD 0)
  | .lowest => BitVec.ofNat 4 ((heldKeys k).headD 0)

/-- `KeyScan()` (R248). -/
def keyScan (s : State) : State :=
  if s.keys ≠ 0 ∧ s.keys ≠ s.prevKeys then
    { s with kjpValid := true, kjpKey := selectKey s.cfg.keySelect s.keys, prevKeys := s.keys }
  else { s with kjpValid := false, prevKeys := s.keys }

/-- `EndOfSlice()` (R245). -/
def endOfSlice (s : State) : State := keyScan (interruptTick (tickSound (tickDelay s)))

/-! ### The host's operations between slices (R262) -/

/-- `Load(image)` (R75): memory as `Load` of an empty image leaves it, then the image from 0x200 on, as many bytes as fit. -/
def doLoad (s : State) (image : List Byte) : State :=
  memWriteBytes { s with mem := [], loaded := true } progOrigin (image.take (memSize - progOrigin))

/-- `Stop()` (R249). -/
def doStop (s : State) : State :=
  if s.run = .running then { s with run := .halted, errReason := .hostStop, errOpcode := 0, errPc := 0 } else s

/-- One move of the host between slices, but for `Slice`, which the driver makes below. -/
def hostMove (s : State) : HostMove → State
  | .load image => doLoad s image
  | .reset => doReset s
  | .stop => doStop s
  | .slice => s
  | .writeKeys k => { s with keys := k }

/-! ### The slice driver (R243) -/

/-- R243's loop, with `fuel` the value of `SLICE_LEFT`. -/
def sliceLoop : Nat → State → Result
  | 0, s => .next s
  | fuel + 1, s =>
    if s.run = .running then
      match runInstr s with
      | .next t => sliceLoop fuel { t with sliceLeft := t.sliceLeft - 1 }
      | .fault r => .fault r
      | .refused r => .refused r
    else .next s

/-- `Slice()` as one operation (R243). -/
def doSlice (s : State) : Result :=
  if s.run = .running then
    match sliceLoop s.cfg.opsPerSlice { s with sliceLeft := s.cfg.opsPerSlice } with
    | .next t => .next (if t.run = .running then endOfSlice t else t)
    | .fault r => .fault r
    | .refused r => .refused r
  else .next s

/-- After an instruction of a slice: the slice goes on while `SLICE_LEFT > 0` and `RUN = Running`; otherwise it is over, with `EndOfSlice`
where the core still runs (R243, D33). -/
def closeStep (s : State) : State :=
  if s.run = .running then
    if s.sliceLeft = 0 then { endOfSlice s with phase := .between } else { s with phase := .inSlice }
  else { s with phase := .between }

/-- One instruction and its unit of the slice's budget (R243, R290). -/
def sliceStep (s : State) : Result :=
  match runInstr s with
  | .next t => .next (closeStep { t with sliceLeft := t.sliceLeft - 1 })
  | .fault r => .fault r
  | .refused r => .refused r

/-- The first instruction of a slice; in `Idle` and `Halted` nothing executes (R242, R243). -/
def startSlice (s : State) : Result :=
  if s.run = .running then sliceStep { s with sliceLeft := s.cfg.opsPerSlice } else .next s

/-- One step of the machine: inside a slice, one instruction; between slices, the host's next move, which is `Slice` where nothing else is
named (log entries 11, 12). The events are those of this step. -/
def coreStep (s : State) : Result :=
  if s.cfg.Legal then
    let t := { s with events := [] }
    match s.phase with
    | .inSlice => if s.run = .running ∧ s.sliceLeft ≠ 0 then sliceStep t else .next (closeStep t)
    | .between =>
      match s.hostMoves with
      | [] => startSlice t
      | .slice :: rest => startSlice { t with hostMoves := rest }
      | m :: rest => .next (hostMove { t with hostMoves := rest } m)
  else .refused .illegalConfiguration

/-- The state with a word placed where the next step fetches, and everything that lets that step be an instruction: a loaded memory, a
core that has been reset and runs, and, where no slice is under way, a host whose next move is `Slice` (log entry 21). -/
def placeWord (s : State) (w : Word) : State :=
  let t := memWriteBytes s s.pc.toNat (bytesOfWord w)
  if s.phase = .inSlice ∧ s.sliceLeft ≠ 0 then { t with loaded := true, wasReset := true, run := .running }
  else { t with loaded := true, wasReset := true, run := .running, phase := .between, hostMoves := [] }

end Sys2Proof.Machine
end

