-- ==== Sys2Proof/Machine/Step.lean ====
section
/-! DEFINITION. Machine/Step.lean: the machine's step, and a state whose next instruction is a given word. Both only call
Machine/Driver.lean. -/

namespace Sys2Proof.Machine

/-- One step of the machine (R6, R96, R243). -/
def step (s : State) : Host.Outcome State Fault Refusal := coreStep s

/-- The state whose next step fetches and runs the instruction of `nbits` bits that are `w`, numbered as spec/opcode_table.json numbers
them. -/
def State.withFetchWord (s : State) (nbits w : Nat) : State := placeWord s (tableWord nbits w)

end Sys2Proof.Machine
end

