-- ==== Sys2Proof/Safety.lean ====
section
/-! DEFINITION. Safety.lean: the terms in which statements are made: the parts of the state and what it is for a part to be unchanged,
and the invariants that the prose of spec/ gives the whole machine. -/

namespace Sys2Proof.Safety

open Sys2Proof.Machine

/-- The parts of the state that a frame speaks of. -/
inductive Part where
  | v | idx | pc | sp | dt | st | sound | mode | phys | rpl | mem
  | keys | prevKeys | kjp | run | err | sliceLeft | latches | cfg | phase | loaded | wasReset | hostMoves | hookKeys | draws | events
  deriving DecidableEq, Repr

/-- A part reads in `t` as it does in `s`. Memory is compared through the read of one byte, at every address; the display byte by byte. -/
def Part.Same (s t : State) : Part → Prop
  | .v => ∀ j, getV t j = getV s j
  | .idx => t.idx = s.idx
  | .pc => t.pc = s.pc
  | .sp => t.sp = s.sp
  | .dt => t.dt = s.dt
  | .st => t.st = s.st
  | .sound => t.sound = s.sound
  | .mode => t.mode = s.mode
  | .phys => ∀ r c, physByte t.phys r c = physByte s.phys r c
  | .rpl => ∀ k, getRpl t k = getRpl s k
  | .mem => ∀ a, memRead t a = memRead s a
  | .keys => t.keys = s.keys
  | .prevKeys => t.prevKeys = s.prevKeys
  | .kjp => t.kjpValid = s.kjpValid ∧ t.kjpKey = s.kjpKey
  | .run => t.run = s.run
  | .err => t.errReason = s.errReason ∧ t.errOpcode = s.errOpcode ∧ t.errPc = s.errPc
  | .sliceLeft => t.sliceLeft = s.sliceLeft
  | .latches => t.ia = s.ia ∧ t.ir = s.ir
  | .cfg => t.cfg = s.cfg
  | .phase => t.phase = s.phase
  | .loaded => t.loaded = s.loaded
  | .wasReset => t.wasReset = s.wasReset
  | .hostMoves => t.hostMoves = s.hostMoves
  | .hookKeys => t.hookKeys = s.hookKeys
  | .draws => t.draws = s.draws
  | .events => t.events = s.events

/-- Every part but those named is unchanged. -/
def SameBut (written : List Part) (s t : State) : Prop := ∀ p, p ∉ written → Part.Same s t p

/-- Of the general registers, only those that `P` names may differ. -/
def RegsBut (P : Nibble → Prop) (s t : State) : Prop := ∀ j, ¬ P j → getV t j = getV s j

/-- The result is a next state that `P` holds of. -/
def Completes (r : Result) (P : State → Prop) : Prop := ∃ t, r = .next t ∧ P t

/-- The error registers, the event and the run state after `raise Error(reason)` in `s` (R232), and nothing else changed. -/
def Raised (reason : Reason) (s t : State) : Prop :=
  t.errReason = reason ∧ t.errOpcode = s.ir ∧ t.errPc = s.ia ∧
  t.events = s.events ++ [.error reason s.ir s.ia] ∧
  (s.cfg.errPolicy = .halting → t.run = .halted) ∧ (s.cfg.errPolicy = .continuing → t.run = s.run) ∧
  SameBut [.err, .events, .run] s t

/-! ### Shapes that several instructions share -/

/-- A skip that is taken exactly when `P` holds: `PC` moves past one more word (R100), and nothing else changes. -/
def Skips (P : Prop) (s t : State) : Prop :=
  (P → t.pc.toNat = (s.pc.toNat + 2) % 4096) ∧ (¬ P → t.pc = s.pc) ∧ SameBut [.pc] s t

/-- `V[x]` becomes the byte of value `r`, and nothing else changes. -/
def SetsReg (x : Nibble) (r : Nat) (s t : State) : Prop :=
  (getV t x).toNat = r ∧ RegsBut (· = x) s t ∧ SameBut [.v] s t

/-- `V[x]` becomes the byte of value `r` and `VF` that of value `f`, which wins where `x = F` (R130), and nothing else changes. -/
def SetsRegAndFlag (x : Nibble) (r f : Nat) (s t : State) : Prop :=
  (x ≠ 0xF#4 → (getV t x).toNat = r) ∧ (getV t 0xF).toNat = f ∧
  RegsBut (fun j => j = x ∨ j = 0xF#4) s t ∧ SameBut [.v] s t

/-- The bytes `f 0`, ..., `f (n - 1)` stand at the `n` addresses from `a` on, reduced mod 4096, and every other address reads as
before. -/
def Stores (a n : Nat) (f : Nat → Nat) (s t : State) : Prop :=
  (∀ k, k < n → (memRead t (a + k)).toNat = f k) ∧
  (∀ b, (∀ k, k < n → b % 4096 ≠ (a + k) % 4096) → memRead t b = memRead s b)

/-! ### The display (R39-R42) and the sprite (R200-R202), in the numbers of the rules -/

/-- The width of the logical grid (R42). -/
def gridCols (m : Mode) : Nat := match m with | .standard => 64 | .extended => 128

/-- The height of the logical grid (R42). -/
def gridRows (m : Mode) : Nat := match m with | .standard => 32 | .extended => 64

/-- Whether the logical pixel at column `c`, row `r` is lit: in extended mode its byte is 0xFF, in standard mode the byte at the origin of
its 2x2 block is (R40). -/
def pixelLit (m : Mode) (p : Phys) (c r : Nat) : Bool :=
  match m with
  | .standard => physByte p (2 * r) (2 * c) == 0xFF
  | .extended => physByte p r c == 0xFF

/-- The logical column that the physical column `c` belongs to (R41). -/
def cellCol (m : Mode) (c : Nat) : Nat := match m with | .standard => c / 2 | .extended => c

/-- The logical row that the physical row `r` belongs to (R41). -/
def cellRow (m : Mode) (r : Nat) : Nat := match m with | .standard => r / 2 | .extended => r

/-- The rows of a sprite: `n`, but 16 for `n = 0` in extended mode; `n = 0` in standard mode is no row (R202). -/
def spriteRows (m : Mode) (n : Nibble) : Nat :=
  match m with
  | .standard => n.toNat
  | .extended => if n.toNat = 0 then 16 else n.toNat

/-- The width of a sprite: 8, but 16 for `n = 0` in extended mode (R202). -/
def spriteWidth (m : Mode) (n : Nibble) : Nat :=
  match m with
  | .standard => 8
  | .extended => if n.toNat = 0 then 16 else 8

/-- The bytes of one row of a sprite: 1, but 2 for `n = 0` in extended mode (R201, R202). -/
def spriteBytesPerRow (m : Mode) (n : Nibble) : Nat :=
  match m with
  | .standard => 1
  | .extended => if n.toNat = 0 then 2 else 1

/-- How far column `c` lies to the right of the sprite's left edge, around the edge of the grid (R200). -/
def spriteCol (s : State) (x : Nibble) (c : Nat) : Nat :=
  (c + gridCols s.mode - (getV s x).toNat % gridCols s.mode) % gridCols s.mode

/-- How far row `r` lies below the sprite's top edge, where it does (R200). -/
def spriteRow (s : State) (y : Nibble) (r : Nat) : Nat := r - (getV s y).toNat % gridRows s.mode

/-- `DRW Vx, Vy, n` in state `s` toggles the logical pixel at column `c`, row `r`: the row is one of the sprite's, not wrapped, the column is
one of the sprite's, wrapped, and the sprite's bit there is set: for column `k` of a row, bit `7 - k mod 8` of the row's byte `k div 8`,
the rows lying one after another from `I` on. -/
def Toggles (s : State) (x y n : Nibble) (c r : Nat) : Prop :=
  (getV s y).toNat % gridRows s.mode ≤ r ∧ spriteRow s y r < spriteRows s.mode n ∧ spriteCol s x c < spriteWidth s.mode n ∧
  (memRead s (s.idx.toNat + (spriteRow s y r * spriteBytesPerRow s.mode n + spriteCol s x c / 8))).getLsbD
    (7 - spriteCol s x c % 8) = true

/-- The draw turns at least one lit pixel dark (R203). -/
def Collides (s : State) (x y n : Nibble) : Prop :=
  ∃ c r, c < gridCols s.mode ∧ r < gridRows s.mode ∧ Toggles s x y n c r ∧ pixelLit s.mode s.phys c r = true

/-! ### Running -/

/-- Both `Reset` and `Load` have happened since power-on (R285). -/
abbrev Booted (s : State) : Prop := s.wasReset = true ∧ s.loaded = true

/-- The next step of `s` runs an instruction: the core runs, and it is inside a slice with budget left, or between slices with a host
whose next move is `Slice`. -/
def RunsInstruction (s : State) : Prop :=
  s.cfg.Legal ∧ s.run = .running ∧
  (s.phase = .inSlice ∧ 0 < s.sliceLeft ∨ s.phase = .between ∧ (s.hostMoves = [] ∨ ∃ rest, s.hostMoves = .slice :: rest))

/-- The state in which that step's instruction executes (R82, R83, R96, R243): the events cleared, the budget given at a slice's start, the
latches written, `PC` advanced. -/
def entryState (s : State) : State :=
  { s with
    events := []
    sliceLeft := if s.phase = .inSlice then s.sliceLeft else s.cfg.opsPerSlice
    hostMoves := if s.phase = .inSlice then s.hostMoves else s.hostMoves.tail
    ia := s.pc
    ir := wordOfBytes (memRead s s.pc.toNat) (memRead s (s.pc.toNat + 1))
    pc := BitVec.ofNat 16 ((s.pc.toNat + 2) % 4096) }

/-! ### Invariants -/

/-- `PC` is below 4096: bits 15:12 are always 0 (R23). -/
abbrev PcInMemory (s : State) : Prop := s.pc.toNat < 4096

/-- `SP` is `STACK_TOP - 2k` for a number of entries `k` from 0 to `STACK_DEPTH` (R29). -/
abbrev SpInStack (s : State) : Prop :=
  ∃ k, k ≤ s.cfg.stackDepth ∧ s.sp.toNat + 2 * k = s.cfg.stackTop.toNat

/-- Memory has its canonical form. -/
abbrev MemCanonical (s : State) : Prop := Memory.wf s.cfg s.mem = true

/-- In standard mode every 2x2 block of the buffer holds four equal bytes (R41). -/
abbrev BlocksEqual (s : State) : Prop :=
  s.mode = .standard → ∀ r c, r < 64 → c < 128 → physByte s.phys r c = physByte s.phys (r / 2 * 2) (c / 2 * 2)

/-- `SLICE_LEFT` is at most `OPS_PER_SLICE` (R44), and inside a slice the core runs with budget left (R243). -/
abbrev SliceCoherent (s : State) : Prop :=
  s.sliceLeft ≤ s.cfg.opsPerSlice ∧ (s.phase = .inSlice → s.run = .running ∧ 0 < s.sliceLeft)

/-- A key-just-pressed signal names a key that the last scan saw held (R38, R248). -/
abbrev KeySignalHeld (s : State) : Prop := s.kjpValid = true → s.prevKeys.getLsbD s.kjpKey.toNat = true

/-- While the sound timer counts, the sound is on (R32, R153, R246). -/
abbrev SoundWhileCounting (s : State) : Prop := s.st ≠ 0 → s.sound = true

/-- Where no diagnostic is recorded, or the host's stop is, the opcode and the address read 0 (R37). -/
abbrev ErrCoherent (s : State) : Prop :=
  s.errReason = .none ∨ s.errReason = .hostStop → s.errOpcode = 0 ∧ s.errPc = 0

/-- A core that is not `Idle`, or that is inside a slice, has been reset (R242, R284): no instruction is reached before. -/
abbrev ResetBeforeRunning (s : State) : Prop := s.run ≠ .idle ∨ s.phase = .inSlice → s.wasReset = true

/-- All of them. -/
structure Inv (s : State) : Prop where
  legal : s.cfg.Legal
  pc : PcInMemory s
  sp : SpInStack s
  mem : MemCanonical s
  blocks : BlocksEqual s
  slice : SliceCoherent s
  keySignal : KeySignalHeld s
  sound : SoundWhileCounting s
  err : ErrCoherent s
  reset : ResetBeforeRunning s

end Sys2Proof.Safety
end

