-- ==== Sys2Proof/Certificates/Slice0/Obligations.lean ====
section
/-! DEFINITION. Certificates/Slice0/Obligations.lean: the statements for the provers. Rule numbers are those of spec/. `PC` in a statement
about `exec` is the already-advanced value `(IA + 2) mod 4096` (R83). -/

open Sys2Proof Sys2Proof.Machine Sys2Proof.Safety

/-! ### Decoding -/

/-- R84-R90: every well-formed instruction is decoded from its own word, every operand bit kept. That the instruction keeps the bits its row ignores is
the model's choice (log entry 14). -/
def Obligations.DecodeOfEncode : Prop := ∀ i : Instr, i.wellFormed = true → decode (encode i) = .ok i

/-- R84-R90: a word that decodes gives a well-formed instruction whose word it is. Two words therefore never decode to one term of `Instr`: this is the
model's choice (log entry 14), since a term keeps the bits its row ignores, where R86, R89 and R140 give words that differ in those bits alone one
instruction. -/
def Obligations.EncodeOfDecode : Prop :=
  ∀ (w : Word) (i : Instr), decode w = .ok i → i.wellFormed = true ∧ encode i = w

/-- R90: a word is an unknown opcode exactly in the four cases the rule lists, and executing one raises `UnknownOpcode`. -/
def Obligations.UnknownOpcodesExactly : Prop :=
  (∀ w : Word, (∃ e, decode w = .error e) ↔
    (w.toNat / 4096 = 0x0 ∧ w.toNat % 256 ∉ [0xE0, 0xEE, 0xFB, 0xFC, 0xFD, 0xFE, 0xFF] ∧ w.toNat / 16 % 16 ≠ 0xC) ∨
    (w.toNat / 4096 = 0xE ∧ w.toNat % 256 ∉ [0x9E, 0xA1]) ∨
    (w.toNat / 4096 = 0xF ∧
      w.toNat % 256 ∉ [0x07, 0x0A, 0x15, 0x18, 0x1E, 0x29, 0x33, 0x55, 0x65, 0x75, 0x85]) ∨
    (w.toNat / 4096 = 0xF ∧ w.toNat % 256 ∈ [0x75, 0x85] ∧ 7 < w.toNat / 256 % 16)) ∧
  (∀ (s : State) (e : Unknown), Booted s →
    decode (wordOfBytes (memRead s s.pc.toNat) (memRead s (s.pc.toNat + 1))) = .error e →
    runInstr s = .next (raiseError (fetch s) .unknownOpcode))

/-- R82, R84-R88: words written out bit by bit, laid out as memory holds them. -/
def Obligations.SampleWordsDecode : Prop :=
  decodeBytes [0b00000101, 0b11100000] = .ok (.cls 0x5, []) ∧
  decodeBytes [0b00000000, 0b11000011] = .ok (.scd 0x0 0x3, []) ∧
  decodeBytes [0b00010010, 0b00001000] = .ok (.jp 0x208, []) ∧
  decodeBytes [0b01101010, 0b01010101] = .ok (.ldVxKk 0xA 0x55, []) ∧
  decodeBytes [0b10000000, 0b00010100] = .ok (.addVxVy 0x0 0x1, []) ∧
  decodeBytes [0b10110011, 0b00000000] = .ok (.jpV0 0x300, []) ∧
  decodeBytes [0b11010000, 0b00010101] = .ok (.drw 0x0 0x1 0x5, []) ∧
  decodeBytes [0b11100010, 0b10011110] = .ok (.skp 0x2, []) ∧
  decodeBytes [0b11110010, 0b01100101] = .ok (.ldVxMi 0x2, [])

/-! ### The step -/

/-- R82, R83, R96, R243: a step runs the instruction at `PC`, on the advanced `PC` and the latched word, and spends one unit of the slice's
budget. That a step of the machine is one instruction of a slice, with the slice closed in it, is the model's choice (log entry 11). -/
def Obligations.StepRunsDecodedInstruction : Prop :=
  ∀ (s : State) (i : Instr), RunsInstruction s → Booted s →
    decode (wordOfBytes (memRead s s.pc.toNat) (memRead s (s.pc.toNat + 1))) = .ok i →
    step s =
      match exec i (entryState s) with
      | .next t => .next (closeStep { t with sliceLeft := t.sliceLeft - 1 })
      | .fault r => .fault r
      | .refused r => .refused r

/-- R243: after an instruction the slice goes on while budget is left and the core runs; when the budget is spent the end-of-slice sequence
runs and the slice is over; a core that no longer runs ends the slice without it. The phase that records this is the model's (log entry 11). -/
def Obligations.StepClosesSlice : Prop :=
  ∀ t : State,
    (t.run = .running → 0 < t.sliceLeft → closeStep t = { t with phase := .inSlice }) ∧
    (t.run = .running → t.sliceLeft = 0 → closeStep t = { endOfSlice t with phase := .between }) ∧
    (t.run ≠ .running → closeStep t = { t with phase := .between })

/-- R233, R232: a word that is no instruction leaves the state as it was but for the advance of `PC`, the error registers, the diagnostic and,
under the `Halt` policy, `RUN`. -/
def Obligations.UnknownWordRaises : Prop :=
  ∀ (s : State) (e : Unknown), Booted s →
    decode (wordOfBytes (memRead s s.pc.toNat) (memRead s (s.pc.toNat + 1))) = .error e →
    Completes (runInstr s) fun t =>
      t.pc.toNat = (s.pc.toNat + 2) % 4096 ∧ t.errReason = .unknownOpcode ∧
      t.errOpcode = wordOfBytes (memRead s s.pc.toNat) (memRead s (s.pc.toNat + 1)) ∧ t.errPc = s.pc ∧
      t.events = s.events ++ [.error .unknownOpcode t.errOpcode s.pc] ∧
      (s.cfg.errPolicy = .halting → t.run = .halted) ∧ (s.cfg.errPolicy = .continuing → t.run = s.run) ∧
      SameBut [.pc, .err, .events, .run, .latches] s t

/-- R90, R237, R285: with a legal configuration, after `Load` and `Reset`, every step completes, whatever the word at `PC`; no step changes the configuration
(log entry 1) or takes back that `Load` and `Reset` have happened (log entries 6 and 7). -/
def Obligations.EveryStepCompletes : Prop :=
  ∀ s : State, s.cfg.Legal → Booted s → Completes (step s) fun t => t.cfg = s.cfg ∧ Booted t

/-- The model's stops: an illegal configuration is refused (log entry 2), and a fetch faults before any `Reset` (R284, 93 part 1 row 11; log entry 7) and,
after one, before any `Load` (R284, 93 part 1 row 12; log entry 6), since what it reads has no value there. -/
def Obligations.StepStopsByName : Prop :=
  ∀ s : State, (¬ s.cfg.Legal → step s = .refused .illegalConfiguration) ∧
    (RunsInstruction s → s.wasReset = false → step s = .fault .neverReset) ∧
    (RunsInstruction s → s.wasReset = true → s.loaded = false → step s = .fault .memoryNeverLoaded)

/-- R242, R255: in `Idle` and `Halted` a slice executes nothing and every item of the state is kept. The list of the host's moves is the model's
choice (log entry 12), and so is the record of one step's events (log entry 13). -/
def Obligations.NothingExecutesUnlessRunning : Prop :=
  ∀ s : State, s.cfg.Legal → s.run ≠ .running → s.phase = .between →
    (s.hostMoves = [] → step s = .next { s with events := [] }) ∧
    (∀ rest, s.hostMoves = .slice :: rest → step s = .next { s with events := [], hostMoves := rest })

/-- R242: `RUN` changes only by the host's `Reset`, by an error under `Halt` and by the host's `Stop`; `EXIT` runs only where the core runs, and leaves it
`Running`. The list of the host's moves is the model's choice (log entry 12). -/
def Obligations.RunStateTransitions : Prop :=
  ∀ s t : State, step s = .next t → t.run ≠ s.run →
    (t.run = .running ∧ s.phase = .between ∧ s.hostMoves.head? = some .reset) ∨
    (s.run = .running ∧ t.run = .halted ∧ s.cfg.errPolicy = .halting ∧
      t.errReason ∈ [Reason.unknownOpcode, .stackOverflow, .stackUnderflow]) ∨
    (s.run = .running ∧ t.run = .halted ∧ s.phase = .between ∧ s.hostMoves.head? = some .stop)

/-! ### Memory -/

/-- R61, R62, R64: at any natural number as address, a read gives the byte last written to that address mod 4096, and a write changes nothing
else. -/
def Obligations.ReadAfterWrite : Prop :=
  ∀ (s : State) (a : Nat) (b : Byte), MemCanonical s →
    (∀ a', memRead (memWrite s a b) a' = if a' % 4096 = a % 4096 then b else memRead s a') ∧
    SameBut [.mem] s (memWrite s a b) ∧ (∀ k, memRead s (a + 4096 * k) = memRead s a)

/-! ### Control transfer -/

/-- R101, R110: `JP nnn` and `JP V0, nnn` write `PC`, reduced mod 4096, and nothing else. -/
def Obligations.JumpsSetPc : Prop :=
  ∀ (nnn : Addr) (s : State),
    (Completes (exec (.jp nnn) s) fun t => t.pc.toNat = nnn.toNat ∧ SameBut [.pc] s t) ∧
    (Completes (exec (.jpV0 nnn) s) fun t =>
      t.pc.toNat = (nnn.toNat + (getV s 0).toNat) % 4096 ∧ SameBut [.pc] s t)

/-- R102, R65: `CALL` on a stack that is not full stores the high byte of the advanced `PC` at `SP` and the low byte at `SP - 1`, lowers `SP` by 2 and
jumps; no other byte of memory changes. -/
def Obligations.CallPushesReturnAddress : Prop :=
  ∀ (nnn : Addr) (s : State), s.cfg.Legal → MemCanonical s →
    s.sp.toNat + 2 * s.cfg.stackDepth ≠ s.cfg.stackTop.toNat →
    Completes (exec (.call nnn) s) fun t =>
      (memRead t s.sp.toNat).toNat = s.pc.toNat / 256 ∧ (memRead t (s.sp - 1).toNat).toNat = s.pc.toNat % 256 ∧
      (∀ a, a % 4096 ≠ s.sp.toNat % 4096 → a % 4096 ≠ (s.sp - 1).toNat % 4096 → memRead t a = memRead s a) ∧
      t.sp = s.sp - 2 ∧ t.pc.toNat = nnn.toNat ∧ SameBut [.mem, .sp, .pc] s t

/-- R234, R102: `CALL` on a full stack raises `StackOverflow`; nothing is pushed, `SP` is unchanged and `PC` stays advanced. -/
def Obligations.CallOnFullStackRaises : Prop :=
  ∀ (nnn : Addr) (s : State), s.cfg.Legal → s.sp.toNat + 2 * s.cfg.stackDepth = s.cfg.stackTop.toNat →
    Completes (exec (.call nnn) s) (Raised .stackOverflow s)

/-- R181: `RET` on a stack that is not empty reads the low byte at `SP + 1` and the high byte at `SP + 2`, raises `SP` by 2 and jumps there, reduced mod
4096. -/
def Obligations.RetPopsReturnAddress : Prop :=
  ∀ (ign : Nibble) (s : State), s.sp ≠ s.cfg.stackTop →
    Completes (exec (.ret ign) s) fun t =>
      t.pc.toNat = ((memRead s (s.sp.toNat + 2)).toNat * 256 + (memRead s (s.sp.toNat + 1)).toNat) % 4096 ∧
      t.sp = s.sp + 2 ∧ SameBut [.pc, .sp] s t

/-- R235, R181: `RET` on an empty stack raises `StackUnderflow`; nothing is popped and `PC` stays advanced. -/
def Obligations.RetOnEmptyStackRaises : Prop :=
  ∀ (ign : Nibble) (s : State), s.sp = s.cfg.stackTop →
    Completes (exec (.ret ign) s) (Raised .stackUnderflow s)

/-- R102, R181: a call and the return right after it leave `PC` at the call's return address and `SP` as it was before the call. -/
def Obligations.CallThenRetRestores : Prop :=
  ∀ (nnn : Addr) (ign : Nibble) (s : State), s.cfg.Legal → MemCanonical s → PcInMemory s → SpInStack s →
    s.sp.toNat + 2 * s.cfg.stackDepth ≠ s.cfg.stackTop.toNat →
    Completes (exec (.call nnn) s) fun t =>
      Completes (exec (.ret ign) t) fun u => u.pc = s.pc ∧ u.sp = s.sp ∧ SameBut [.mem] s u

/-- R100, R103, R104, R105, R108: the four register skips pass over one word exactly when their comparison holds, whatever bits they ignore. -/
def Obligations.RegisterSkips : Prop :=
  ∀ (x y ign : Nibble) (kk : Byte) (s : State),
    Completes (exec (.seVxKk x kk) s) (Skips (getV s x = kk) s) ∧
    Completes (exec (.sneVxKk x kk) s) (Skips (getV s x ≠ kk) s) ∧
    Completes (exec (.seVxVy x y ign) s) (Skips (getV s x = getV s y) s) ∧
    Completes (exec (.sneVxVy x y ign) s) (Skips (getV s x ≠ getV s y) s)

/-- R220, R221, R222: the key skips test the held state of the key that the low nibble of the register names. -/
def Obligations.KeySkips : Prop :=
  ∀ (x : Nibble) (s : State),
    Completes (exec (.skp x) s) (Skips (s.keys.getLsbD ((getV s x).toNat % 16) = true) s) ∧
    Completes (exec (.sknp x) s) (Skips (s.keys.getLsbD ((getV s x).toNat % 16) = false) s)

/-! ### Registers -/

/-- R106, R131, R150: `LD Vx, kk`, `LD Vx, Vy` and `LD Vx, DT` write one register and no flag. -/
def Obligations.RegisterLoads : Prop :=
  ∀ (x y : Nibble) (kk : Byte) (s : State),
    Completes (exec (.ldVxKk x kk) s) (SetsReg x kk.toNat s) ∧
    Completes (exec (.ldVxVy x y) s) (SetsReg x (getV s y).toNat s) ∧
    Completes (exec (.ldVxDt x) s) (SetsReg x s.dt.toNat s)

/-- R107: `ADD Vx, kk` wraps mod 256 and writes no flag. -/
def Obligations.AddImmediateWraps : Prop :=
  ∀ (x : Nibble) (kk : Byte) (s : State),
    Completes (exec (.addVxKk x kk) s) (SetsReg x (((getV s x).toNat + kk.toNat) % 256) s)

/-- R132, R133, R134: the logic operations, bit by bit; no flag is written. -/
def Obligations.LogicOperations : Prop :=
  ∀ (x y : Nibble) (s : State),
    (Completes (exec (.orVxVy x y) s) fun t =>
      (∀ k, (getV t x).getLsbD k = ((getV s x).getLsbD k || (getV s y).getLsbD k)) ∧
      RegsBut (· = x) s t ∧ SameBut [.v] s t) ∧
    (Completes (exec (.andVxVy x y) s) fun t =>
      (∀ k, (getV t x).getLsbD k = ((getV s x).getLsbD k && (getV s y).getLsbD k)) ∧
      RegsBut (· = x) s t ∧ SameBut [.v] s t) ∧
    (Completes (exec (.xorVxVy x y) s) fun t =>
      (∀ k, (getV t x).getLsbD k = ((getV s x).getLsbD k ^^ (getV s y).getLsbD k)) ∧
      RegsBut (· = x) s t ∧ SameBut [.v] s t)

/-- R135, R130: `ADD Vx, Vy` writes the sum mod 256, then the carry to `VF`, which wins where `x = F`. -/
def Obligations.AddSetsCarry : Prop :=
  ∀ (x y : Nibble) (s : State),
    Completes (exec (.addVxVy x y) s)
      (SetsRegAndFlag x (((getV s x).toNat + (getV s y).toNat) % 256)
        (if 256 ≤ (getV s x).toNat + (getV s y).toNat then 1 else 0) s)

/-- R136, R138, R130: `SUB` and `SUBN` write the difference mod 256, then "not borrow" to `VF`, which is 1 for equal operands. -/
def Obligations.SubtractsSetNotBorrow : Prop :=
  ∀ (x y : Nibble) (s : State),
    Completes (exec (.sub x y) s)
      (SetsRegAndFlag x ((256 + (getV s x).toNat - (getV s y).toNat) % 256)
        (if (getV s y).toNat ≤ (getV s x).toNat then 1 else 0) s) ∧
    Completes (exec (.subn x y) s)
      (SetsRegAndFlag x ((256 + (getV s y).toNat - (getV s x).toNat) % 256)
        (if (getV s x).toNat ≤ (getV s y).toNat then 1 else 0) s)

/-- R137, R139, R130: the shifts by one read `Vx` alone and write the bit shifted out to `VF`. -/
def Obligations.ShiftsSetBitOut : Prop :=
  ∀ (x y : Nibble) (s : State),
    Completes (exec (.shr x y) s) (SetsRegAndFlag x ((getV s x).toNat / 2) ((getV s x).toNat % 2) s) ∧
    Completes (exec (.shl x y) s)
      (SetsRegAndFlag x ((getV s x).toNat * 2 % 256) ((getV s x).toNat / 128) s)

/-- R85, R140: every word `8xyN` with `N` one of 8, 9, A, B, C, D, F decodes, raises nothing and changes nothing. -/
def Obligations.Nop8ChangesNothing : Prop :=
  (∀ w : Word, w.toNat / 4096 = 8 → w.toNat % 16 ∈ [0x8, 0x9, 0xA, 0xB, 0xC, 0xD, 0xF] →
    ∃ i, decode w = .ok i ∧ ∀ s, exec i s = .next s) ∧
  (∀ (ign : Byte) (s : State),
    exec (.nop8x8 ign) s = .next s ∧ exec (.nop8x9 ign) s = .next s ∧ exec (.nop8xA ign) s = .next s ∧
    exec (.nop8xB ign) s = .next s ∧ exec (.nop8xC ign) s = .next s ∧ exec (.nop8xD ign) s = .next s ∧
    exec (.nop8xF ign) s = .next s)

/-- R109, R154: `LD I, nnn` writes `nnn` to `I`; `ADD I, Vx` wraps mod 65536; no flag is written. -/
def Obligations.IndexLoadAndAdd : Prop :=
  ∀ (nnn : Addr) (x : Nibble) (s : State),
    (Completes (exec (.ldINnn nnn) s) fun t => t.idx.toNat = nnn.toNat ∧ SameBut [.idx] s t) ∧
    (Completes (exec (.addIVx x) s) fun t =>
      t.idx.toNat = (s.idx.toNat + (getV s x).toNat) % 65536 ∧ SameBut [.idx] s t)

/-- R155: `LD F, Vx` points `I` at the glyph of the low nibble, 5 bytes a glyph from 0x000 in standard mode, 10 from 0x050 in extended
mode. -/
def Obligations.GlyphAddress : Prop :=
  ∀ (x : Nibble) (s : State),
    Completes (exec (.ldFVx x) s) fun t =>
      (s.mode = .standard → t.idx.toNat = (getV s x).toNat % 16 * 5) ∧
      (s.mode = .extended → t.idx.toNat = (getV s x).toNat % 16 * 10 + 0x050) ∧ SameBut [.idx] s t

/-- R111, R112: `RND Vx, kk` writes the drawn byte masked by `kk`, and the next draw is a new one. The drawn byte is the model's free value (log
entry 4): nothing is known of it. -/
def Obligations.RandomMaskedByImmediate : Prop :=
  ∀ (x : Nibble) (kk : Byte) (s : State),
    Completes (exec (.rnd x kk) s) fun t =>
      (∀ k, (getV t x).getLsbD k = ((Config.rngByte s.draws).getLsbD k && kk.getLsbD k)) ∧
      t.draws = s.draws + 1 ∧ RegsBut (· = x) s t ∧ SameBut [.v, .draws] s t

/-! ### Timers, keys, memory blocks and flag storage -/

/-- R151: `LD Vx, K` takes an available key, without consuming the signal, and otherwise rewinds `PC` by 2, back to the instruction itself. -/
def Obligations.KeyWait : Prop :=
  ∀ (x : Nibble) (s : State),
    (s.kjpValid = true → Completes (exec (.ldVxK x) s) (SetsReg x s.kjpKey.toNat s)) ∧
    (s.kjpValid = false → Completes (exec (.ldVxK x) s) fun t =>
      t.pc.toNat = (s.pc.toNat + 4094) % 4096 ∧
      (s.ia.toNat < 4096 → s.pc.toNat = (s.ia.toNat + 2) % 4096 → t.pc = s.ia) ∧ SameBut [.pc] s t)

/-- R152, R153: `LD DT, Vx` writes `DT`; `LD ST, Vx` writes `ST` and turns the sound on, with its event, exactly at a nonzero write. -/
def Obligations.TimerWrites : Prop :=
  ∀ (x : Nibble) (s : State),
    (Completes (exec (.ldDtVx x) s) fun t => t.dt = getV s x ∧ SameBut [.dt] s t) ∧
    (getV s x ≠ 0 → Completes (exec (.ldStVx x) s) fun t =>
      t.st = getV s x ∧ t.sound = true ∧ t.events = s.events ++ [.soundOn] ∧ SameBut [.st, .sound, .events] s t) ∧
    (getV s x = 0 → Completes (exec (.ldStVx x) s) fun t => t.st = 0 ∧ SameBut [.st] s t)

/-- R156: `LD B, Vx` stores the hundreds, tens and units digits at `I`, `I + 1` and `I + 2`, and changes no other byte, nor `I`. -/
def Obligations.BcdStore : Prop :=
  ∀ (x : Nibble) (s : State), MemCanonical s →
    Completes (exec (.ldBVx x) s) fun t =>
      Stores s.idx.toNat 3
        (fun k => if k = 0 then (getV s x).toNat / 100 else if k = 1 then (getV s x).toNat / 10 % 10
          else (getV s x).toNat % 10) s t ∧ SameBut [.mem] s t

/-- R157: `LD [I], Vx` stores `V0..Vx` at `I..I+x`, and changes no other byte, nor `I`. -/
def Obligations.RegisterBlockStore : Prop :=
  ∀ (x : Nibble) (s : State), MemCanonical s →
    Completes (exec (.ldMiVx x) s) fun t =>
      Stores s.idx.toNat (x.toNat + 1) (fun k => (getV s (BitVec.ofNat 4 k)).toNat) s t ∧ SameBut [.mem] s t

/-- R158: `LD Vx, [I]` loads `V0..Vx` from `I..I+x`, and changes no other register, nor `I`. -/
def Obligations.RegisterBlockLoad : Prop :=
  ∀ (x : Nibble) (s : State),
    Completes (exec (.ldVxMi x) s) fun t =>
      (∀ j : Nibble, j.toNat ≤ x.toNat → getV t j = memRead s (s.idx.toNat + j.toNat)) ∧
      RegsBut (fun j => j.toNat ≤ x.toNat) s t ∧ SameBut [.v] s t

/-- R159, R160: for `x` at most 7, `LD R, Vx` saves `V0..Vx` to flag storage and `LD Vx, R` restores them, and neither changes anything else. -/
def Obligations.FlagStorageSaveAndRestore : Prop :=
  ∀ (x : Nibble) (s : State), x.toNat ≤ 7 →
    (Completes (exec (.ldRVx x) s) fun t =>
      (∀ k, k ≤ x.toNat → getRpl t k = getV s (BitVec.ofNat 4 k)) ∧
      (∀ k, x.toNat < k → getRpl t k = getRpl s k) ∧ SameBut [.rpl] s t) ∧
    (Completes (exec (.ldVxR x) s) fun t =>
      (∀ j : Nibble, j.toNat ≤ x.toNat → getV t j = getRpl s j.toNat) ∧
      RegsBut (fun j => j.toNat ≤ x.toNat) s t ∧ SameBut [.v] s t)

/-- The model's choice for the two terms of `Instr` that no word encodes (R90 gives their words as unknown opcodes; log entry 17): with `x` above 7 they raise
`UnknownOpcode` and move nothing. -/
def Obligations.IllFormedFlagStorageRaises : Prop :=
  ∀ (x : Nibble) (s : State), 7 < x.toNat →
    Completes (exec (.ldRVx x) s) (Raised .unknownOpcode s) ∧ Completes (exec (.ldVxR x) s) (Raised .unknownOpcode s)

/-! ### The display -/

/-- R180, R186, R187, R43: `CLS`, `LOW` and `HIGH` make every byte of `PHYS` 0x00; `LOW` and `HIGH` set the mode too, whatever it was. -/
def Obligations.ClearAndModeSwitch : Prop :=
  ∀ (ign : Nibble) (s : State),
    (Completes (exec (.cls ign) s) fun t => (∀ r c, physByte t.phys r c = 0x00) ∧ SameBut [.phys] s t) ∧
    (Completes (exec (.low ign) s) fun t =>
      t.mode = .standard ∧ (∀ r c, physByte t.phys r c = 0x00) ∧ SameBut [.phys, .mode] s t) ∧
    (Completes (exec (.high ign) s) fun t =>
      t.mode = .extended ∧ (∀ r c, physByte t.phys r c = 0x00) ∧ SameBut [.phys, .mode] s t)

/-- R182, R188, R40, R41: `SCD n` moves every logical pixel down by `n` rows of the current grid, the top `n` rows become dark, and the bottom rows are
lost; every pixel is rewritten, so every byte of `PHYS` is that of its logical pixel, in standard mode all four of a 2x2 block. -/
def Obligations.ScrollDown : Prop :=
  ∀ (ign n : Nibble) (s : State),
    Completes (exec (.scd ign n) s) fun t =>
      (∀ r c, r < 64 → c < 128 →
        physByte t.phys r c =
          if n.toNat ≤ cellRow s.mode r ∧ pixelLit s.mode s.phys (cellCol s.mode c) (cellRow s.mode r - n.toNat) = true then 0xFF
          else 0x00) ∧
      SameBut [.phys] s t

/-- R183, R184, R188, R40, R41: `SCR` and `SCL` move every logical pixel by 4 columns of the current grid; the vacated columns become dark and what leaves
the grid is lost; every pixel is rewritten, so every byte of `PHYS` is that of its logical pixel, in standard mode all four of a 2x2 block. -/
def Obligations.ScrollSideways : Prop :=
  ∀ (ign : Nibble) (s : State),
    (Completes (exec (.scr ign) s) fun t =>
      (∀ r c, r < 64 → c < 128 →
        physByte t.phys r c =
          if 4 ≤ cellCol s.mode c ∧ pixelLit s.mode s.phys (cellCol s.mode c - 4) (cellRow s.mode r) = true then 0xFF else 0x00) ∧
      SameBut [.phys] s t) ∧
    (Completes (exec (.scl ign) s) fun t =>
      (∀ r c, r < 64 → c < 128 →
        physByte t.phys r c =
          if cellCol s.mode c + 4 < gridCols s.mode ∧ pixelLit s.mode s.phys (cellCol s.mode c + 4) (cellRow s.mode r) = true then 0xFF
          else 0x00) ∧
      SameBut [.phys] s t)

/-- R200, R201, R202, R203: `DRW` toggles exactly the pixels under a set bit of the sprite, each as its physical cell or 2x2 block, and `VF` is 1 exactly when
no lit pixel was turned dark. The sprite's rows, width, bytes and bits are those of R201 and R202 in numbers (`Safety.Toggles`). -/
def Obligations.DrawTogglesAndReports : Prop :=
  ∀ (x y n : Nibble) (s : State),
    Completes (exec (.drw x y n) s) fun t =>
      (∀ r c, r < 64 → c < 128 →
        (Toggles s x y n (cellCol s.mode c) (cellRow s.mode r) →
          physByte t.phys r c = if pixelLit s.mode s.phys (cellCol s.mode c) (cellRow s.mode r) then 0x00 else 0xFF) ∧
        (¬ Toggles s x y n (cellCol s.mode c) (cellRow s.mode r) → physByte t.phys r c = physByte s.phys r c)) ∧
      (Collides s x y n → getV t 0xF = 0) ∧ (¬ Collides s x y n → getV t 0xF = 1) ∧
      RegsBut (· = 0xF#4) s t ∧ SameBut [.phys, .v] s t

/-- R200 (corner cases), R203: drawing the same sprite twice at the same place restores every pixel. That the second draw reports a collision exactly when
the first toggled a pixel that was dark is the model's deduction from R203 (DEDUCED, log entry 19): R200's corner case and C9 say it of any pixel drawn, in
words for a dark display. -/
def Obligations.DrawTwiceRestores : Prop :=
  ∀ (x y n : Nibble) (s : State), x ≠ 0xF#4 → y ≠ 0xF#4 →
    Completes (exec (.drw x y n) s) fun t =>
      Completes (exec (.drw x y n) t) fun u =>
        (∀ c r, c < gridCols s.mode → r < gridRows s.mode → pixelLit u.mode u.phys c r = pixelLit s.mode s.phys c r) ∧
        (BlocksEqual s → ∀ r c, physByte u.phys r c = physByte s.phys r c) ∧
        (getV u 0xF = 0 ↔
          ∃ c r, c < gridCols s.mode ∧ r < gridRows s.mode ∧ Toggles s x y n c r ∧ pixelLit s.mode s.phys c r = false)

/-! ### Reset, load and the host -/

/-- R185, R280, R282, R283: `EXIT` sets every item of the reset list, signals `sound_off`, and keeps memory, flag storage and the slice's budget. That the record
of a reset, `wasReset`, is set is the model's choice (log entry 7). -/
def Obligations.ExitResets : Prop :=
  ∀ (ign : Nibble) (s : State),
    Completes (exec (.exit ign) s) fun t =>
      (∀ j, getV t j = 0x00) ∧ t.idx = 0x0000 ∧ t.pc = 0x0200 ∧ t.sp = s.cfg.stackTop ∧ t.dt = 0x00 ∧ t.st = 0x00 ∧
      t.mode = .standard ∧ (∀ r c, physByte t.phys r c = 0x00) ∧ t.keys = 0 ∧ t.prevKeys = 0 ∧ t.kjpValid = false ∧
      t.kjpKey = 0 ∧ t.errReason = .none ∧ t.errOpcode = 0 ∧ t.errPc = 0 ∧ t.sound = false ∧ t.run = .running ∧
      t.events = s.events ++ [.soundOff] ∧ t.wasReset = true ∧
      SameBut [.v, .idx, .pc, .sp, .dt, .st, .mode, .phys, .keys, .prevKeys, .kjp, .err, .sound, .run, .events,
        .wasReset] s t

/-- R49, R281, R284, R285: from power-on, whatever stands in the items that are unspecified there, `Load` of an empty image and `Reset` leave the same state in
either order: every item of R49 at its reset value, but for what neither writes. A second `Reset` changes nothing but that it signals `sound_off` again.
R242, R280: the host's `Reset` between slices is that operation, in every run state and whether memory is loaded or not. The values the model chose in
`State.reset` are named in log entries 1, 3, 4, 5, 6, 7, 8, 9, 11, 12 and 13; the list of the host's moves and the record of one step's events are the model's (log
entries 12 and 13). -/
def Obligations.ResetAfterLoad : Prop :=
  (∀ u : State,
    doReset (doLoad (State.powerOn u) []) = doLoad (doReset (State.powerOn u)) [] ∧
    doReset (doLoad (State.powerOn u) []) =
      { State.reset with
        cfg := u.cfg, sp := u.cfg.stackTop, sliceLeft := u.sliceLeft, ia := u.ia, ir := u.ir, draws := u.draws
        hostMoves := u.hostMoves, hookKeys := u.hookKeys }) ∧
  doReset (doLoad (State.powerOn State.reset) []) = State.reset ∧
  (∀ s : State, doReset (doReset s) = { doReset s with events := s.events ++ [.soundOff, .soundOff] }) ∧
  (∀ (s : State) (rest : List HostMove), s.cfg.Legal → s.phase = .between → s.hostMoves = .reset :: rest →
    step s = .next (doReset { s with events := [], hostMoves := rest }))

/-- R75: after `Load(image)` each byte of memory is the image's from 0x200 on, as far as it fits, the fonts at their places, and zero elsewhere; nothing
else changes but the model's record that memory is loaded (log entry 6). R69, R262: the host's `Load` between slices is that operation, in every run state and
whether memory was loaded before or not; the list of the host's moves and the record of one step's events are the model's (log entries 12 and 13). -/
def Obligations.LoadInstallsFontsAndImage : Prop :=
  (∀ (s : State) (image : List Byte),
    (∀ a, a < 4096 → memRead (doLoad s image) a =
      if 0x200 ≤ a ∧ a - 0x200 < image.length then image.getD (a - 0x200) 0
      else if a < 80 then font.getD a 0
      else if 0x050 ≤ a ∧ a < 0x0F0 then s.cfg.extFont.toList.getD (a - 0x050) 0
      else 0x00) ∧
    (doLoad s image).loaded = true ∧ SameBut [.mem, .loaded] s (doLoad s image)) ∧
  (∀ (s : State) (image : List Byte) (rest : List HostMove), s.cfg.Legal → s.phase = .between → s.hostMoves = .load image :: rest →
    step s = .next (doLoad { s with events := [], hostMoves := rest } image))

/-- R249, R262, R69: the host's `Stop` between slices halts a running core with `HostStop`, opcode 0 and address 0, and has no effect on another; its
write of `KEYS` writes `KEYS` alone. Neither signals anything. The list of the host's moves and the record of one step's events are the model's choice (log
entries 12 and 13); the host's `Reset` and `Load` stand in `ResetAfterLoad` and `LoadInstallsFontsAndImage`. -/
def Obligations.HostStopAndKeys : Prop :=
  ∀ (s : State) (rest : List HostMove) (k : BitVec 16), s.cfg.Legal → s.phase = .between →
    (s.hostMoves = .stop :: rest → Completes (step s) fun t =>
      (s.run = .running →
        t.run = .halted ∧ t.errReason = .hostStop ∧ t.errOpcode = 0 ∧ t.errPc = 0) ∧
      (s.run ≠ .running → Part.Same s t .run ∧ Part.Same s t .err) ∧
      t.hostMoves = rest ∧ t.events = [] ∧ SameBut [.run, .err, .events, .hostMoves] s t) ∧
    (s.hostMoves = .writeKeys k :: rest → Completes (step s) fun t =>
      t.keys = k ∧ t.hostMoves = rest ∧ t.events = [] ∧ SameBut [.keys, .events, .hostMoves] s t)

/-! ### The slice -/

/-- R245, R246, R247, R250: at the end of a slice both timers fall by one while nonzero; `sound_off` is signalled exactly when the sound timer falls
from 1 to 0, before `interrupt_tick`; the host may then write `KEYS`, and the key scan sees that. The list of what the host writes there is the model's choice (log
entry 12). -/
def Obligations.EndOfSliceSequence : Prop :=
  ∀ s : State,
    (endOfSlice s).dt.toNat = s.dt.toNat - 1 ∧ (endOfSlice s).st.toNat = s.st.toNat - 1 ∧
    (endOfSlice s).sound = (if s.st = 1 then false else s.sound) ∧
    (endOfSlice s).events = s.events ++ (if s.st = 1 then [.soundOff] else []) ++ [.interruptTick] ∧
    (endOfSlice s).keys = (match s.hookKeys.head? with | some (some k) => k | _ => s.keys) ∧
    (endOfSlice s).hookKeys = s.hookKeys.tail ∧ (endOfSlice s).prevKeys = (endOfSlice s).keys ∧
    ((endOfSlice s).kjpValid = true ↔ (endOfSlice s).keys ≠ 0 ∧ (endOfSlice s).keys ≠ s.prevKeys) ∧
    SameBut [.dt, .st, .sound, .events, .keys, .prevKeys, .kjp, .hookKeys] s (endOfSlice s)

/-- R248: the key scan raises the signal exactly when some key is held and the held set has changed, with the highest or the lowest held key as
`KEY_SELECT` says, and clears it otherwise; it is the last action of the end of a slice, after the host's callback. -/
def Obligations.KeyScanResolves : Prop :=
  ∀ s : State,
    (keyScan s).prevKeys = s.keys ∧
    ((keyScan s).kjpValid = true ↔ s.keys ≠ 0 ∧ s.keys ≠ s.prevKeys) ∧
    ((keyScan s).kjpValid = true →
      s.keys.getLsbD (keyScan s).kjpKey.toNat = true ∧
      (s.cfg.keySelect = .highest → ∀ k, k < 16 → s.keys.getLsbD k = true → k ≤ (keyScan s).kjpKey.toNat) ∧
      (s.cfg.keySelect = .lowest → ∀ k, k < 16 → s.keys.getLsbD k = true → (keyScan s).kjpKey.toNat ≤ k)) ∧
    ((keyScan s).kjpValid = false → (keyScan s).kjpKey = s.kjpKey) ∧
    SameBut [.kjp, .prevKeys] s (keyScan s) ∧ endOfSlice s = keyScan (interruptTick (tickSound (tickDelay s)))

/-- R243: `OPS_PER_SLICE` steps of the machine, from between slices and with a host that only calls `Slice`, do exactly what `Slice()` as the spec
writes it does, but for the record of the last step's events. The small steps are the model's choice (log entries 11, 12, 13). -/
def Obligations.SliceIsItsSteps : Prop :=
  ∀ s : State, s.cfg.Legal → Booted s → s.phase = .between → s.hostMoves = [] →
    Completes (Host.Core.run core s.cfg.opsPerSlice s) fun t =>
      Completes (doSlice s) fun u => ({ t with events := [] } : State) = { u with events := [] }

/-- R286, R185: `EXIT` resets the core and keeps the slice's budget, of which it spends one unit: with budget left the slice goes on from 0x200, and as the
last instruction of the slice it is followed by the end-of-slice sequence, which changes neither timer. It holds of `EXIT` as the first instruction of a slice too, where
the budget is `OPS_PER_SLICE`. That a step is one instruction, and the phase that says whether the slice goes on, are the model's choice (log entry 11), and so is
the record of one step's events (log entry 13). -/
def Obligations.ExitKeepsSliceBudget : Prop :=
  ∀ (s : State) (ign : Nibble), RunsInstruction s → Booted s → decode (entryState s).ir = .ok (.exit ign) →
    Completes (step s) fun t =>
      t.pc = 0x0200 ∧ t.run = .running ∧ t.sliceLeft = (entryState s).sliceLeft - 1 ∧ t.dt = 0 ∧ t.st = 0 ∧ t.sound = false ∧
      Part.Same s t .mem ∧ Part.Same s t .rpl ∧
      (1 < (entryState s).sliceLeft → t.phase = .inSlice ∧ t.events = [.soundOff] ∧ t.hookKeys = s.hookKeys) ∧
      ((entryState s).sliceLeft = 1 → t.phase = .between ∧ t.events = [.soundOff, .interruptTick] ∧ t.hookKeys = s.hookKeys.tail)

/-- R243, R232, D33: under the `Halt` policy an unknown word ends the slice at once: no timer falls, no key is scanned and `interrupt_tick` is not
signalled. The phase, and that the slice is over in the step that halts, are the model's choice (log entry 11), and so is the record of one step's events (log
entry 13). -/
def Obligations.HaltEndsSliceAtOnce : Prop :=
  ∀ (s : State) (e : Unknown), RunsInstruction s → Booted s → s.cfg.errPolicy = .halting →
    decode (entryState s).ir = .error e →
    Completes (step s) fun t =>
      t.run = .halted ∧ t.phase = .between ∧ t.errReason = .unknownOpcode ∧ t.errOpcode = (entryState s).ir ∧ t.errPc = s.pc ∧
      t.events = [.error .unknownOpcode (entryState s).ir s.pc] ∧ t.pc = (entryState s).pc ∧
      t.sliceLeft = (entryState s).sliceLeft - 1 ∧ t.hostMoves = (entryState s).hostMoves ∧
      SameBut [.run, .err, .events, .pc, .latches, .sliceLeft, .phase, .hostMoves] s t

/-! ### Which instructions write what -/

/-- R26, R29, R33, R35: `I`, `SP`, `RPL` and `MODE` are written only by the instructions their rules name, and by `EXIT`'s reset where that sets
them. -/
def Obligations.RegisterWriters : Prop :=
  ∀ (i : Instr) (s t : State), exec i s = .next t →
    (match i with | .ldINnn _ | .addIVx _ | .ldFVx _ | .exit _ => True | _ => Part.Same s t .idx) ∧
    (match i with | .call _ | .ret _ | .exit _ => True | _ => Part.Same s t .sp) ∧
    (match i with | .ldRVx _ => True | _ => Part.Same s t .rpl) ∧
    (match i with | .low _ | .high _ | .exit _ => True | _ => Part.Same s t .mode)

/-- R60, R68: memory is written only by `CALL`, `LD B, Vx` and `LD [I], Vx`. R43, R188, R200: the display is written only by the clears, the scrolls and the mode
switches of family 0 and by `DRW`. R30, R31: the timers are written by no instruction but their loads; R32, R153: nor is the sound level but by `LD ST, Vx`. R34,
R38: no instruction writes the key state. `EXIT`'s reset writes all of them but memory (R185, R280). -/
def Obligations.MemoryAndDeviceWriters : Prop :=
  ∀ (i : Instr) (s t : State), exec i s = .next t →
    (match i with | .call _ | .ldBVx _ | .ldMiVx _ => True | _ => Part.Same s t .mem) ∧
    (match i with
      | .cls _ | .scd _ _ | .scr _ | .scl _ | .low _ | .high _ | .drw _ _ _ | .exit _ => True
      | _ => Part.Same s t .phys) ∧
    (match i with | .ldDtVx _ | .exit _ => True | _ => Part.Same s t .dt) ∧
    (match i with | .ldStVx _ | .exit _ => True | _ => Part.Same s t .st ∧ Part.Same s t .sound) ∧
    (match i with | .exit _ => True | _ => Part.Same s t .keys ∧ Part.Same s t .prevKeys ∧ Part.Same s t .kjp)

/-- R21: `VF` is written only by the flag producers, by an instruction whose register field reaches F, and by `EXIT`'s reset. -/
def Obligations.FlagWriters : Prop :=
  ∀ (i : Instr) (s t : State), exec i s = .next t →
    match i with
    | .addVxVy _ _ | .sub _ _ | .shr _ _ | .subn _ _ | .shl _ _ | .drw _ _ _ | .exit _ => True
    | .ldVxKk x _ | .addVxKk x _ | .rnd x _ => x ≠ 0xF#4 → getV t 0xF = getV s 0xF
    | .ldVxVy x _ | .orVxVy x _ | .andVxVy x _ | .xorVxVy x _ => x ≠ 0xF#4 → getV t 0xF = getV s 0xF
    | .ldVxDt x | .ldVxK x | .ldVxMi x => x ≠ 0xF#4 → getV t 0xF = getV s 0xF
    | _ => getV t 0xF = getV s 0xF

/-! ### Invariants -/

/-- Every step keeps memory's canonical form, so that equal memories are equal data (log entry 5). -/
def Obligations.StepKeepsMemoryCanonical : Prop :=
  ∀ s t : State, MemCanonical s → step s = .next t → MemCanonical t

/-- R23: every step keeps bits 15:12 of `PC` 0. -/
def Obligations.StepKeepsPcInMemory : Prop :=
  ∀ s t : State, PcInMemory s → step s = .next t → PcInMemory t

/-- R29 (an inference the spec marks as its own): every step keeps `SP` at `STACK_TOP - 2k` for a number of entries `k` from 0 to `STACK_DEPTH`. -/
def Obligations.StepKeepsSpInStack : Prop :=
  ∀ s t : State, SpInStack s → step s = .next t → SpInStack t

/-- R41: every step keeps the 2x2 blocks of standard mode equal. -/
def Obligations.StepKeepsBlocksEqual : Prop :=
  ∀ s t : State, BlocksEqual s → step s = .next t → BlocksEqual t

/-- Inferred from R44, R243, R248, R153, R37, R242 and R284: every step keeps the slice's budget in range, a key-just-pressed signal on a key held at the last
scan, the sound on while its timer counts, the error registers 0 where no instruction's diagnostic is recorded, and no core running or inside a slice that has not been
reset (log entries 7 and 11). -/
def Obligations.StepKeepsStatusCoherent : Prop :=
  ∀ s t : State, step s = .next t →
    (SliceCoherent s → SliceCoherent t) ∧ (KeySignalHeld s → KeySignalHeld t) ∧
    (SoundWhileCounting s → SoundWhileCounting t) ∧ (ErrCoherent s → ErrCoherent t) ∧
    (ResetBeforeRunning s → ResetBeforeRunning t)

/-- Every invariant holds right after reset (R49; the model's choices there are those of log entries 1, 3, 5, 7, 8, 11). At power-on `RUN` is `Idle` and `RPL` is 0x00
throughout, whatever stands elsewhere, so no instruction is reached before a `Reset` (R284, R242). -/
def Obligations.ResetMeetsInvariants : Prop :=
  Inv State.reset ∧
  ∀ u : State, (State.powerOn u).run = .idle ∧ (∀ k, getRpl (State.powerOn u) k = 0x00) ∧ ResetBeforeRunning (State.powerOn u)
end

