-- ==== Sys2Proof/Laws/Bits.lean ====
section
/-! SUPPORT. Laws/Bits.lean: the fields of a word that is built of fields, and a word as its fields (spec/30_encoding.md R81). -/

namespace Sys2Proof

theorem toNat_wordXyn (op x y n : Nibble) :
    (wordXyn op x y n).toNat = op.toNat * 4096 + x.toNat * 256 + y.toNat * 16 + n.toNat := by
  have := op.isLt; have := x.isLt; have := y.isLt; have := n.isLt
  simp only [wordXyn, BitVec.toNat_append]
  rw [← Nat.shiftLeft_add_eq_or_of_lt (by omega), ← Nat.shiftLeft_add_eq_or_of_lt (by omega),
    ← Nat.shiftLeft_add_eq_or_of_lt (by omega)]
  simp only [Nat.shiftLeft_eq]
  omega

theorem toNat_wordXkk (op x : Nibble) (kk : Byte) :
    (wordXkk op x kk).toNat = op.toNat * 4096 + x.toNat * 256 + kk.toNat := by
  have := op.isLt; have := x.isLt; have := kk.isLt
  simp only [wordXkk, BitVec.toNat_append]
  rw [← Nat.shiftLeft_add_eq_or_of_lt (by omega), ← Nat.shiftLeft_add_eq_or_of_lt (by omega)]
  simp only [Nat.shiftLeft_eq]
  omega

theorem toNat_wordNnn (op : Nibble) (nnn : Addr) : (wordNnn op nnn).toNat = op.toNat * 4096 + nnn.toNat := by
  have := op.isLt; have := nnn.isLt
  simp only [wordNnn, BitVec.toNat_append]
  rw [← Nat.shiftLeft_add_eq_or_of_lt (by omega)]
  simp only [Nat.shiftLeft_eq]

theorem toNat_wordXyTogether (op : Nibble) (xy : Byte) (n : Nibble) :
    (wordXyTogether op xy n).toNat = op.toNat * 4096 + xy.toNat * 16 + n.toNat := by
  have := op.isLt; have := xy.isLt; have := n.isLt
  simp only [wordXyTogether, BitVec.toNat_append]
  rw [← Nat.shiftLeft_add_eq_or_of_lt (by omega), ← Nat.shiftLeft_add_eq_or_of_lt (by omega)]
  simp only [Nat.shiftLeft_eq]
  omega

theorem toNat_wordOfBytes (hi lo : Byte) : (wordOfBytes hi lo).toNat = hi.toNat * 256 + lo.toNat := by
  have := hi.isLt; have := lo.isLt
  simp only [wordOfBytes, BitVec.toNat_append]
  rw [← Nat.shiftLeft_add_eq_or_of_lt (by omega)]
  simp only [Nat.shiftLeft_eq]

/-! ### Fields as numbers -/

theorem toNat_fieldOp (w : Word) : (fieldOp w).toNat = w.toNat / 4096 := by
  have := w.isLt
  simp only [fieldOp, BitVec.extractLsb'_toNat, Nat.shiftRight_eq_div_pow]; omega
theorem toNat_fieldX (w : Word) : (fieldX w).toNat = w.toNat / 256 % 16 := by
  simp only [fieldX, BitVec.extractLsb'_toNat, Nat.shiftRight_eq_div_pow]
theorem toNat_fieldY (w : Word) : (fieldY w).toNat = w.toNat / 16 % 16 := by
  simp only [fieldY, BitVec.extractLsb'_toNat, Nat.shiftRight_eq_div_pow]
theorem toNat_fieldN (w : Word) : (fieldN w).toNat = w.toNat % 16 := by
  simp only [fieldN, BitVec.extractLsb'_toNat, Nat.shiftRight_eq_div_pow]; omega
theorem toNat_fieldKk (w : Word) : (fieldKk w).toNat = w.toNat % 256 := by
  simp only [fieldKk, BitVec.extractLsb'_toNat, Nat.shiftRight_eq_div_pow]; omega
theorem toNat_fieldNnn (w : Word) : (fieldNnn w).toNat = w.toNat % 4096 := by
  simp only [fieldNnn, BitVec.extractLsb'_toNat, Nat.shiftRight_eq_div_pow]; omega
theorem toNat_fieldXy (w : Word) : (fieldXy w).toNat = w.toNat / 16 % 256 := by
  simp only [fieldXy, BitVec.extractLsb'_toNat, Nat.shiftRight_eq_div_pow]

/-! ### The fields of a word built of fields -/

@[simp] theorem fieldOp_wordXyn (op x y n : Nibble) : fieldOp (wordXyn op x y n) = op := by
  apply BitVec.eq_of_toNat_eq; rw [toNat_fieldOp, toNat_wordXyn]
  have := x.isLt; have := y.isLt; have := n.isLt; omega
@[simp] theorem fieldX_wordXyn (op x y n : Nibble) : fieldX (wordXyn op x y n) = x := by
  apply BitVec.eq_of_toNat_eq; rw [toNat_fieldX, toNat_wordXyn]
  have := x.isLt; have := y.isLt; have := n.isLt; omega
@[simp] theorem fieldY_wordXyn (op x y n : Nibble) : fieldY (wordXyn op x y n) = y := by
  apply BitVec.eq_of_toNat_eq; rw [toNat_fieldY, toNat_wordXyn]
  have := y.isLt; have := n.isLt; omega
@[simp] theorem fieldN_wordXyn (op x y n : Nibble) : fieldN (wordXyn op x y n) = n := by
  apply BitVec.eq_of_toNat_eq; rw [toNat_fieldN, toNat_wordXyn]
  have := n.isLt; omega
theorem toNat_fieldKk_wordXyn (op x y n : Nibble) :
    (fieldKk (wordXyn op x y n)).toNat = y.toNat * 16 + n.toNat := by
  rw [toNat_fieldKk, toNat_wordXyn]; have := y.isLt; have := n.isLt; omega

@[simp] theorem fieldOp_wordXkk (op x : Nibble) (kk : Byte) : fieldOp (wordXkk op x kk) = op := by
  apply BitVec.eq_of_toNat_eq; rw [toNat_fieldOp, toNat_wordXkk]
  have := x.isLt; have := kk.isLt; omega
@[simp] theorem fieldX_wordXkk (op x : Nibble) (kk : Byte) : fieldX (wordXkk op x kk) = x := by
  apply BitVec.eq_of_toNat_eq; rw [toNat_fieldX, toNat_wordXkk]
  have := x.isLt; have := kk.isLt; omega
@[simp] theorem fieldKk_wordXkk (op x : Nibble) (kk : Byte) : fieldKk (wordXkk op x kk) = kk := by
  apply BitVec.eq_of_toNat_eq; rw [toNat_fieldKk, toNat_wordXkk]
  have := kk.isLt; omega
@[simp] theorem fieldY_wordXkk (op x : Nibble) (kk : Byte) : fieldY (wordXkk op x kk) = kk.extractLsb' 4 4 := by
  apply BitVec.eq_of_toNat_eq
  rw [toNat_fieldY, toNat_wordXkk, BitVec.extractLsb'_toNat, Nat.shiftRight_eq_div_pow]
  have := kk.isLt; omega
theorem toNat_fieldY_wordXkk (op x : Nibble) (kk : Byte) :
    (fieldY (wordXkk op x kk)).toNat = kk.toNat / 16 := by
  rw [toNat_fieldY, toNat_wordXkk]; have := kk.isLt; omega

@[simp] theorem fieldOp_wordNnn (op : Nibble) (nnn : Addr) : fieldOp (wordNnn op nnn) = op := by
  apply BitVec.eq_of_toNat_eq; rw [toNat_fieldOp, toNat_wordNnn]; have := nnn.isLt; omega
@[simp] theorem fieldNnn_wordNnn (op : Nibble) (nnn : Addr) : fieldNnn (wordNnn op nnn) = nnn := by
  apply BitVec.eq_of_toNat_eq; rw [toNat_fieldNnn, toNat_wordNnn]; have := nnn.isLt; omega

@[simp] theorem fieldOp_wordXyTogether (op : Nibble) (xy : Byte) (n : Nibble) :
    fieldOp (wordXyTogether op xy n) = op := by
  apply BitVec.eq_of_toNat_eq; rw [toNat_fieldOp, toNat_wordXyTogether]
  have := xy.isLt; have := n.isLt; omega
@[simp] theorem fieldXy_wordXyTogether (op : Nibble) (xy : Byte) (n : Nibble) :
    fieldXy (wordXyTogether op xy n) = xy := by
  apply BitVec.eq_of_toNat_eq; rw [toNat_fieldXy, toNat_wordXyTogether]
  have := xy.isLt; have := n.isLt; omega
@[simp] theorem fieldN_wordXyTogether (op : Nibble) (xy : Byte) (n : Nibble) :
    fieldN (wordXyTogether op xy n) = n := by
  apply BitVec.eq_of_toNat_eq; rw [toNat_fieldN, toNat_wordXyTogether]
  have := n.isLt; omega

/-! ### A word as its fields, in each of the four patterns -/

theorem wordXyn_fields (w : Word) : wordXyn (fieldOp w) (fieldX w) (fieldY w) (fieldN w) = w := by
  apply BitVec.eq_of_toNat_eq
  rw [toNat_wordXyn, toNat_fieldOp, toNat_fieldX, toNat_fieldY, toNat_fieldN]; omega
theorem wordXkk_fields (w : Word) : wordXkk (fieldOp w) (fieldX w) (fieldKk w) = w := by
  apply BitVec.eq_of_toNat_eq
  rw [toNat_wordXkk, toNat_fieldOp, toNat_fieldX, toNat_fieldKk]; omega
theorem wordNnn_fields (w : Word) : wordNnn (fieldOp w) (fieldNnn w) = w := by
  apply BitVec.eq_of_toNat_eq
  rw [toNat_wordNnn, toNat_fieldOp, toNat_fieldNnn]; omega
theorem wordXyTogether_fields (w : Word) : wordXyTogether (fieldOp w) (fieldXy w) (fieldN w) = w := by
  apply BitVec.eq_of_toNat_eq
  rw [toNat_wordXyTogether, toNat_fieldOp, toNat_fieldXy, toNat_fieldN]; omega

/-- The bytes of a word give the word back. -/
theorem wordOfBytes_bytesOfWord (w : Word) : wordOfBytes (w.extractLsb' 8 8) (w.extractLsb' 0 8) = w := by
  apply BitVec.eq_of_toNat_eq
  rw [toNat_wordOfBytes]
  have := w.isLt
  simp only [BitVec.extractLsb'_toNat, Nat.shiftRight_eq_div_pow]
  omega

/-! ### The dispatch tables -/

/-- What a table gives is one of its entries. -/
theorem mem_of_pick {κ β : Type} [DecidableEq κ] {k : κ} {b : β} {l : List (κ × β)} (h : pick k l = some b) :
    (k, b) ∈ l := by
  induction l with
  | nil => cases h
  | cons p l ih =>
    obtain ⟨a, c⟩ := p
    rw [pick] at h
    split at h
    · cases h; subst_vars; exact List.mem_cons_self
    · exact List.mem_cons_of_mem _ (ih h)

/-- A table gives nothing exactly where no entry has the selector. -/
theorem pick_eq_none {κ β : Type} [DecidableEq κ] {k : κ} {l : List (κ × β)} :
    pick k l = none ↔ ∀ p ∈ l, k ≠ p.1 := by
  induction l with
  | nil => simp [pick]
  | cons p l ih =>
    obtain ⟨a, c⟩ := p
    rw [pick]
    split <;> simp_all

end Sys2Proof
end

