-- ==== Sys2Proof/Laws/State.lean ====
section
/-! SUPPORT. Laws/State.lean: for every named update of the state, one lemma per field it leaves alone, and the values of the fields it
writes. No later proof unfolds an update. -/

namespace Sys2Proof.Machine

/-! ### `setV` -/

@[simp] theorem setV_idx (s : State) (x : Nibble) (b : Byte) : (setV s x b).idx = s.idx := rfl
@[simp] theorem setV_pc (s : State) (x : Nibble) (b : Byte) : (setV s x b).pc = s.pc := rfl
@[simp] theorem setV_sp (s : State) (x : Nibble) (b : Byte) : (setV s x b).sp = s.sp := rfl
@[simp] theorem setV_dt (s : State) (x : Nibble) (b : Byte) : (setV s x b).dt = s.dt := rfl
@[simp] theorem setV_st (s : State) (x : Nibble) (b : Byte) : (setV s x b).st = s.st := rfl
@[simp] theorem setV_sound (s : State) (x : Nibble) (b : Byte) : (setV s x b).sound = s.sound := rfl
@[simp] theorem setV_mode (s : State) (x : Nibble) (b : Byte) : (setV s x b).mode = s.mode := rfl
@[simp] theorem setV_phys (s : State) (x : Nibble) (b : Byte) : (setV s x b).phys = s.phys := rfl
@[simp] theorem setV_rpl (s : State) (x : Nibble) (b : Byte) : (setV s x b).rpl = s.rpl := rfl
@[simp] theorem setV_mem (s : State) (x : Nibble) (b : Byte) : (setV s x b).mem = s.mem := rfl
@[simp] theorem setV_keys (s : State) (x : Nibble) (b : Byte) : (setV s x b).keys = s.keys := rfl
@[simp] theorem setV_prevKeys (s : State) (x : Nibble) (b : Byte) : (setV s x b).prevKeys = s.prevKeys := rfl
@[simp] theorem setV_kjpValid (s : State) (x : Nibble) (b : Byte) : (setV s x b).kjpValid = s.kjpValid := rfl
@[simp] theorem setV_kjpKey (s : State) (x : Nibble) (b : Byte) : (setV s x b).kjpKey = s.kjpKey := rfl
@[simp] theorem setV_run (s : State) (x : Nibble) (b : Byte) : (setV s x b).run = s.run := rfl
@[simp] theorem setV_errReason (s : State) (x : Nibble) (b : Byte) : (setV s x b).errReason = s.errReason := rfl
@[simp] theorem setV_errOpcode (s : State) (x : Nibble) (b : Byte) : (setV s x b).errOpcode = s.errOpcode := rfl
@[simp] theorem setV_errPc (s : State) (x : Nibble) (b : Byte) : (setV s x b).errPc = s.errPc := rfl
@[simp] theorem setV_sliceLeft (s : State) (x : Nibble) (b : Byte) : (setV s x b).sliceLeft = s.sliceLeft := rfl
@[simp] theorem setV_ia (s : State) (x : Nibble) (b : Byte) : (setV s x b).ia = s.ia := rfl
@[simp] theorem setV_ir (s : State) (x : Nibble) (b : Byte) : (setV s x b).ir = s.ir := rfl
@[simp] theorem setV_cfg (s : State) (x : Nibble) (b : Byte) : (setV s x b).cfg = s.cfg := rfl
@[simp] theorem setV_phase (s : State) (x : Nibble) (b : Byte) : (setV s x b).phase = s.phase := rfl
@[simp] theorem setV_loaded (s : State) (x : Nibble) (b : Byte) : (setV s x b).loaded = s.loaded := rfl
@[simp] theorem setV_wasReset (s : State) (x : Nibble) (b : Byte) : (setV s x b).wasReset = s.wasReset := rfl
@[simp] theorem setV_draws (s : State) (x : Nibble) (b : Byte) : (setV s x b).draws = s.draws := rfl
@[simp] theorem setV_events (s : State) (x : Nibble) (b : Byte) : (setV s x b).events = s.events := rfl
@[simp] theorem setV_hostMoves (s : State) (x : Nibble) (b : Byte) : (setV s x b).hostMoves = s.hostMoves := rfl
@[simp] theorem setV_hookKeys (s : State) (x : Nibble) (b : Byte) : (setV s x b).hookKeys = s.hookKeys := rfl

/-! ### `setVFlag` -/

@[simp] theorem setVFlag_idx (s : State) (x : Nibble) (r f : Byte) : (setVFlag s x r f).idx = s.idx := rfl
@[simp] theorem setVFlag_pc (s : State) (x : Nibble) (r f : Byte) : (setVFlag s x r f).pc = s.pc := rfl
@[simp] theorem setVFlag_sp (s : State) (x : Nibble) (r f : Byte) : (setVFlag s x r f).sp = s.sp := rfl
@[simp] theorem setVFlag_dt (s : State) (x : Nibble) (r f : Byte) : (setVFlag s x r f).dt = s.dt := rfl
@[simp] theorem setVFlag_st (s : State) (x : Nibble) (r f : Byte) : (setVFlag s x r f).st = s.st := rfl
@[simp] theorem setVFlag_sound (s : State) (x : Nibble) (r f : Byte) : (setVFlag s x r f).sound = s.sound := rfl
@[simp] theorem setVFlag_mode (s : State) (x : Nibble) (r f : Byte) : (setVFlag s x r f).mode = s.mode := rfl
@[simp] theorem setVFlag_phys (s : State) (x : Nibble) (r f : Byte) : (setVFlag s x r f).phys = s.phys := rfl
@[simp] theorem setVFlag_rpl (s : State) (x : Nibble) (r f : Byte) : (setVFlag s x r f).rpl = s.rpl := rfl
@[simp] theorem setVFlag_mem (s : State) (x : Nibble) (r f : Byte) : (setVFlag s x r f).mem = s.mem := rfl
@[simp] theorem setVFlag_keys (s : State) (x : Nibble) (r f : Byte) : (setVFlag s x r f).keys = s.keys := rfl
@[simp] theorem setVFlag_prevKeys (s : State) (x : Nibble) (r f : Byte) : (setVFlag s x r f).prevKeys = s.prevKeys := rfl
@[simp] theorem setVFlag_kjpValid (s : State) (x : Nibble) (r f : Byte) : (setVFlag s x r f).kjpValid = s.kjpValid := rfl
@[simp] theorem setVFlag_kjpKey (s : State) (x : Nibble) (r f : Byte) : (setVFlag s x r f).kjpKey = s.kjpKey := rfl
@[simp] theorem setVFlag_run (s : State) (x : Nibble) (r f : Byte) : (setVFlag s x r f).run = s.run := rfl
@[simp] theorem setVFlag_errReason (s : State) (x : Nibble) (r f : Byte) : (setVFlag s x r f).errReason = s.errReason := rfl
@[simp] theorem setVFlag_errOpcode (s : State) (x : Nibble) (r f : Byte) : (setVFlag s x r f).errOpcode = s.errOpcode := rfl
@[simp] theorem setVFlag_errPc (s : State) (x : Nibble) (r f : Byte) : (setVFlag s x r f).errPc = s.errPc := rfl
@[simp] theorem setVFlag_sliceLeft (s : State) (x : Nibble) (r f : Byte) : (setVFlag s x r f).sliceLeft = s.sliceLeft := rfl
@[simp] theorem setVFlag_ia (s : State) (x : Nibble) (r f : Byte) : (setVFlag s x r f).ia = s.ia := rfl
@[simp] theorem setVFlag_ir (s : State) (x : Nibble) (r f : Byte) : (setVFlag s x r f).ir = s.ir := rfl
@[simp] theorem setVFlag_cfg (s : State) (x : Nibble) (r f : Byte) : (setVFlag s x r f).cfg = s.cfg := rfl
@[simp] theorem setVFlag_phase (s : State) (x : Nibble) (r f : Byte) : (setVFlag s x r f).phase = s.phase := rfl
@[simp] theorem setVFlag_loaded (s : State) (x : Nibble) (r f : Byte) : (setVFlag s x r f).loaded = s.loaded := rfl
@[simp] theorem setVFlag_wasReset (s : State) (x : Nibble) (r f : Byte) : (setVFlag s x r f).wasReset = s.wasReset := rfl
@[simp] theorem setVFlag_draws (s : State) (x : Nibble) (r f : Byte) : (setVFlag s x r f).draws = s.draws := rfl
@[simp] theorem setVFlag_events (s : State) (x : Nibble) (r f : Byte) : (setVFlag s x r f).events = s.events := rfl
@[simp] theorem setVFlag_hostMoves (s : State) (x : Nibble) (r f : Byte) : (setVFlag s x r f).hostMoves = s.hostMoves := rfl
@[simp] theorem setVFlag_hookKeys (s : State) (x : Nibble) (r f : Byte) : (setVFlag s x r f).hookKeys = s.hookKeys := rfl

/-! ### `setPc` -/

@[simp] theorem setPc_v (s : State) (a : Nat) : (setPc s a).v = s.v := rfl
@[simp] theorem setPc_idx (s : State) (a : Nat) : (setPc s a).idx = s.idx := rfl
@[simp] theorem setPc_sp (s : State) (a : Nat) : (setPc s a).sp = s.sp := rfl
@[simp] theorem setPc_dt (s : State) (a : Nat) : (setPc s a).dt = s.dt := rfl
@[simp] theorem setPc_st (s : State) (a : Nat) : (setPc s a).st = s.st := rfl
@[simp] theorem setPc_sound (s : State) (a : Nat) : (setPc s a).sound = s.sound := rfl
@[simp] theorem setPc_mode (s : State) (a : Nat) : (setPc s a).mode = s.mode := rfl
@[simp] theorem setPc_phys (s : State) (a : Nat) : (setPc s a).phys = s.phys := rfl
@[simp] theorem setPc_rpl (s : State) (a : Nat) : (setPc s a).rpl = s.rpl := rfl
@[simp] theorem setPc_mem (s : State) (a : Nat) : (setPc s a).mem = s.mem := rfl
@[simp] theorem setPc_keys (s : State) (a : Nat) : (setPc s a).keys = s.keys := rfl
@[simp] theorem setPc_prevKeys (s : State) (a : Nat) : (setPc s a).prevKeys = s.prevKeys := rfl
@[simp] theorem setPc_kjpValid (s : State) (a : Nat) : (setPc s a).kjpValid = s.kjpValid := rfl
@[simp] theorem setPc_kjpKey (s : State) (a : Nat) : (setPc s a).kjpKey = s.kjpKey := rfl
@[simp] theorem setPc_run (s : State) (a : Nat) : (setPc s a).run = s.run := rfl
@[simp] theorem setPc_errReason (s : State) (a : Nat) : (setPc s a).errReason = s.errReason := rfl
@[simp] theorem setPc_errOpcode (s : State) (a : Nat) : (setPc s a).errOpcode = s.errOpcode := rfl
@[simp] theorem setPc_errPc (s : State) (a : Nat) : (setPc s a).errPc = s.errPc := rfl
@[simp] theorem setPc_sliceLeft (s : State) (a : Nat) : (setPc s a).sliceLeft = s.sliceLeft := rfl
@[simp] theorem setPc_ia (s : State) (a : Nat) : (setPc s a).ia = s.ia := rfl
@[simp] theorem setPc_ir (s : State) (a : Nat) : (setPc s a).ir = s.ir := rfl
@[simp] theorem setPc_cfg (s : State) (a : Nat) : (setPc s a).cfg = s.cfg := rfl
@[simp] theorem setPc_phase (s : State) (a : Nat) : (setPc s a).phase = s.phase := rfl
@[simp] theorem setPc_loaded (s : State) (a : Nat) : (setPc s a).loaded = s.loaded := rfl
@[simp] theorem setPc_wasReset (s : State) (a : Nat) : (setPc s a).wasReset = s.wasReset := rfl
@[simp] theorem setPc_draws (s : State) (a : Nat) : (setPc s a).draws = s.draws := rfl
@[simp] theorem setPc_events (s : State) (a : Nat) : (setPc s a).events = s.events := rfl
@[simp] theorem setPc_hostMoves (s : State) (a : Nat) : (setPc s a).hostMoves = s.hostMoves := rfl
@[simp] theorem setPc_hookKeys (s : State) (a : Nat) : (setPc s a).hookKeys = s.hookKeys := rfl

/-! ### `setRpl` -/

@[simp] theorem setRpl_v (s : State) (k : Nat) (b : Byte) : (setRpl s k b).v = s.v := rfl
@[simp] theorem setRpl_idx (s : State) (k : Nat) (b : Byte) : (setRpl s k b).idx = s.idx := rfl
@[simp] theorem setRpl_pc (s : State) (k : Nat) (b : Byte) : (setRpl s k b).pc = s.pc := rfl
@[simp] theorem setRpl_sp (s : State) (k : Nat) (b : Byte) : (setRpl s k b).sp = s.sp := rfl
@[simp] theorem setRpl_dt (s : State) (k : Nat) (b : Byte) : (setRpl s k b).dt = s.dt := rfl
@[simp] theorem setRpl_st (s : State) (k : Nat) (b : Byte) : (setRpl s k b).st = s.st := rfl
@[simp] theorem setRpl_sound (s : State) (k : Nat) (b : Byte) : (setRpl s k b).sound = s.sound := rfl
@[simp] theorem setRpl_mode (s : State) (k : Nat) (b : Byte) : (setRpl s k b).mode = s.mode := rfl
@[simp] theorem setRpl_phys (s : State) (k : Nat) (b : Byte) : (setRpl s k b).phys = s.phys := rfl
@[simp] theorem setRpl_mem (s : State) (k : Nat) (b : Byte) : (setRpl s k b).mem = s.mem := rfl
@[simp] theorem setRpl_keys (s : State) (k : Nat) (b : Byte) : (setRpl s k b).keys = s.keys := rfl
@[simp] theorem setRpl_prevKeys (s : State) (k : Nat) (b : Byte) : (setRpl s k b).prevKeys = s.prevKeys := rfl
@[simp] theorem setRpl_kjpValid (s : State) (k : Nat) (b : Byte) : (setRpl s k b).kjpValid = s.kjpValid := rfl
@[simp] theorem setRpl_kjpKey (s : State) (k : Nat) (b : Byte) : (setRpl s k b).kjpKey = s.kjpKey := rfl
@[simp] theorem setRpl_run (s : State) (k : Nat) (b : Byte) : (setRpl s k b).run = s.run := rfl
@[simp] theorem setRpl_errReason (s : State) (k : Nat) (b : Byte) : (setRpl s k b).errReason = s.errReason := rfl
@[simp] theorem setRpl_errOpcode (s : State) (k : Nat) (b : Byte) : (setRpl s k b).errOpcode = s.errOpcode := rfl
@[simp] theorem setRpl_errPc (s : State) (k : Nat) (b : Byte) : (setRpl s k b).errPc = s.errPc := rfl
@[simp] theorem setRpl_sliceLeft (s : State) (k : Nat) (b : Byte) : (setRpl s k b).sliceLeft = s.sliceLeft := rfl
@[simp] theorem setRpl_ia (s : State) (k : Nat) (b : Byte) : (setRpl s k b).ia = s.ia := rfl
@[simp] theorem setRpl_ir (s : State) (k : Nat) (b : Byte) : (setRpl s k b).ir = s.ir := rfl
@[simp] theorem setRpl_cfg (s : State) (k : Nat) (b : Byte) : (setRpl s k b).cfg = s.cfg := rfl
@[simp] theorem setRpl_phase (s : State) (k : Nat) (b : Byte) : (setRpl s k b).phase = s.phase := rfl
@[simp] theorem setRpl_loaded (s : State) (k : Nat) (b : Byte) : (setRpl s k b).loaded = s.loaded := rfl
@[simp] theorem setRpl_wasReset (s : State) (k : Nat) (b : Byte) : (setRpl s k b).wasReset = s.wasReset := rfl
@[simp] theorem setRpl_draws (s : State) (k : Nat) (b : Byte) : (setRpl s k b).draws = s.draws := rfl
@[simp] theorem setRpl_events (s : State) (k : Nat) (b : Byte) : (setRpl s k b).events = s.events := rfl
@[simp] theorem setRpl_hostMoves (s : State) (k : Nat) (b : Byte) : (setRpl s k b).hostMoves = s.hostMoves := rfl
@[simp] theorem setRpl_hookKeys (s : State) (k : Nat) (b : Byte) : (setRpl s k b).hookKeys = s.hookKeys := rfl

/-! ### `memWrite` -/

@[simp] theorem memWrite_v (s : State) (a : Nat) (b : Byte) : (memWrite s a b).v = s.v := rfl
@[simp] theorem memWrite_idx (s : State) (a : Nat) (b : Byte) : (memWrite s a b).idx = s.idx := rfl
@[simp] theorem memWrite_pc (s : State) (a : Nat) (b : Byte) : (memWrite s a b).pc = s.pc := rfl
@[simp] theorem memWrite_sp (s : State) (a : Nat) (b : Byte) : (memWrite s a b).sp = s.sp := rfl
@[simp] theorem memWrite_dt (s : State) (a : Nat) (b : Byte) : (memWrite s a b).dt = s.dt := rfl
@[simp] theorem memWrite_st (s : State) (a : Nat) (b : Byte) : (memWrite s a b).st = s.st := rfl
@[simp] theorem memWrite_sound (s : State) (a : Nat) (b : Byte) : (memWrite s a b).sound = s.sound := rfl
@[simp] theorem memWrite_mode (s : State) (a : Nat) (b : Byte) : (memWrite s a b).mode = s.mode := rfl
@[simp] theorem memWrite_phys (s : State) (a : Nat) (b : Byte) : (memWrite s a b).phys = s.phys := rfl
@[simp] theorem memWrite_rpl (s : State) (a : Nat) (b : Byte) : (memWrite s a b).rpl = s.rpl := rfl
@[simp] theorem memWrite_keys (s : State) (a : Nat) (b : Byte) : (memWrite s a b).keys = s.keys := rfl
@[simp] theorem memWrite_prevKeys (s : State) (a : Nat) (b : Byte) : (memWrite s a b).prevKeys = s.prevKeys := rfl
@[simp] theorem memWrite_kjpValid (s : State) (a : Nat) (b : Byte) : (memWrite s a b).kjpValid = s.kjpValid := rfl
@[simp] theorem memWrite_kjpKey (s : State) (a : Nat) (b : Byte) : (memWrite s a b).kjpKey = s.kjpKey := rfl
@[simp] theorem memWrite_run (s : State) (a : Nat) (b : Byte) : (memWrite s a b).run = s.run := rfl
@[simp] theorem memWrite_errReason (s : State) (a : Nat) (b : Byte) : (memWrite s a b).errReason = s.errReason := rfl
@[simp] theorem memWrite_errOpcode (s : State) (a : Nat) (b : Byte) : (memWrite s a b).errOpcode = s.errOpcode := rfl
@[simp] theorem memWrite_errPc (s : State) (a : Nat) (b : Byte) : (memWrite s a b).errPc = s.errPc := rfl
@[simp] theorem memWrite_sliceLeft (s : State) (a : Nat) (b : Byte) : (memWrite s a b).sliceLeft = s.sliceLeft := rfl
@[simp] theorem memWrite_ia (s : State) (a : Nat) (b : Byte) : (memWrite s a b).ia = s.ia := rfl
@[simp] theorem memWrite_ir (s : State) (a : Nat) (b : Byte) : (memWrite s a b).ir = s.ir := rfl
@[simp] theorem memWrite_cfg (s : State) (a : Nat) (b : Byte) : (memWrite s a b).cfg = s.cfg := rfl
@[simp] theorem memWrite_phase (s : State) (a : Nat) (b : Byte) : (memWrite s a b).phase = s.phase := rfl
@[simp] theorem memWrite_loaded (s : State) (a : Nat) (b : Byte) : (memWrite s a b).loaded = s.loaded := rfl
@[simp] theorem memWrite_wasReset (s : State) (a : Nat) (b : Byte) : (memWrite s a b).wasReset = s.wasReset := rfl
@[simp] theorem memWrite_draws (s : State) (a : Nat) (b : Byte) : (memWrite s a b).draws = s.draws := rfl
@[simp] theorem memWrite_events (s : State) (a : Nat) (b : Byte) : (memWrite s a b).events = s.events := rfl
@[simp] theorem memWrite_hostMoves (s : State) (a : Nat) (b : Byte) : (memWrite s a b).hostMoves = s.hostMoves := rfl
@[simp] theorem memWrite_hookKeys (s : State) (a : Nat) (b : Byte) : (memWrite s a b).hookKeys = s.hookKeys := rfl

/-! ### `emit` -/

@[simp] theorem emit_v (s : State) (e : Event) : (emit s e).v = s.v := rfl
@[simp] theorem emit_idx (s : State) (e : Event) : (emit s e).idx = s.idx := rfl
@[simp] theorem emit_pc (s : State) (e : Event) : (emit s e).pc = s.pc := rfl
@[simp] theorem emit_sp (s : State) (e : Event) : (emit s e).sp = s.sp := rfl
@[simp] theorem emit_dt (s : State) (e : Event) : (emit s e).dt = s.dt := rfl
@[simp] theorem emit_st (s : State) (e : Event) : (emit s e).st = s.st := rfl
@[simp] theorem emit_sound (s : State) (e : Event) : (emit s e).sound = s.sound := rfl
@[simp] theorem emit_mode (s : State) (e : Event) : (emit s e).mode = s.mode := rfl
@[simp] theorem emit_phys (s : State) (e : Event) : (emit s e).phys = s.phys := rfl
@[simp] theorem emit_rpl (s : State) (e : Event) : (emit s e).rpl = s.rpl := rfl
@[simp] theorem emit_mem (s : State) (e : Event) : (emit s e).mem = s.mem := rfl
@[simp] theorem emit_keys (s : State) (e : Event) : (emit s e).keys = s.keys := rfl
@[simp] theorem emit_prevKeys (s : State) (e : Event) : (emit s e).prevKeys = s.prevKeys := rfl
@[simp] theorem emit_kjpValid (s : State) (e : Event) : (emit s e).kjpValid = s.kjpValid := rfl
@[simp] theorem emit_kjpKey (s : State) (e : Event) : (emit s e).kjpKey = s.kjpKey := rfl
@[simp] theorem emit_run (s : State) (e : Event) : (emit s e).run = s.run := rfl
@[simp] theorem emit_errReason (s : State) (e : Event) : (emit s e).errReason = s.errReason := rfl
@[simp] theorem emit_errOpcode (s : State) (e : Event) : (emit s e).errOpcode = s.errOpcode := rfl
@[simp] theorem emit_errPc (s : State) (e : Event) : (emit s e).errPc = s.errPc := rfl
@[simp] theorem emit_sliceLeft (s : State) (e : Event) : (emit s e).sliceLeft = s.sliceLeft := rfl
@[simp] theorem emit_ia (s : State) (e : Event) : (emit s e).ia = s.ia := rfl
@[simp] theorem emit_ir (s : State) (e : Event) : (emit s e).ir = s.ir := rfl
@[simp] theorem emit_cfg (s : State) (e : Event) : (emit s e).cfg = s.cfg := rfl
@[simp] theorem emit_phase (s : State) (e : Event) : (emit s e).phase = s.phase := rfl
@[simp] theorem emit_loaded (s : State) (e : Event) : (emit s e).loaded = s.loaded := rfl
@[simp] theorem emit_wasReset (s : State) (e : Event) : (emit s e).wasReset = s.wasReset := rfl
@[simp] theorem emit_draws (s : State) (e : Event) : (emit s e).draws = s.draws := rfl
@[simp] theorem emit_hostMoves (s : State) (e : Event) : (emit s e).hostMoves = s.hostMoves := rfl
@[simp] theorem emit_hookKeys (s : State) (e : Event) : (emit s e).hookKeys = s.hookKeys := rfl

/-! ### `soundOff` -/

@[simp] theorem soundOff_v (s : State) : (soundOff s).v = s.v := rfl
@[simp] theorem soundOff_idx (s : State) : (soundOff s).idx = s.idx := rfl
@[simp] theorem soundOff_pc (s : State) : (soundOff s).pc = s.pc := rfl
@[simp] theorem soundOff_sp (s : State) : (soundOff s).sp = s.sp := rfl
@[simp] theorem soundOff_dt (s : State) : (soundOff s).dt = s.dt := rfl
@[simp] theorem soundOff_st (s : State) : (soundOff s).st = s.st := rfl
@[simp] theorem soundOff_mode (s : State) : (soundOff s).mode = s.mode := rfl
@[simp] theorem soundOff_phys (s : State) : (soundOff s).phys = s.phys := rfl
@[simp] theorem soundOff_rpl (s : State) : (soundOff s).rpl = s.rpl := rfl
@[simp] theorem soundOff_mem (s : State) : (soundOff s).mem = s.mem := rfl
@[simp] theorem soundOff_keys (s : State) : (soundOff s).keys = s.keys := rfl
@[simp] theorem soundOff_prevKeys (s : State) : (soundOff s).prevKeys = s.prevKeys := rfl
@[simp] theorem soundOff_kjpValid (s : State) : (soundOff s).kjpValid = s.kjpValid := rfl
@[simp] theorem soundOff_kjpKey (s : State) : (soundOff s).kjpKey = s.kjpKey := rfl
@[simp] theorem soundOff_run (s : State) : (soundOff s).run = s.run := rfl
@[simp] theorem soundOff_errReason (s : State) : (soundOff s).errReason = s.errReason := rfl
@[simp] theorem soundOff_errOpcode (s : State) : (soundOff s).errOpcode = s.errOpcode := rfl
@[simp] theorem soundOff_errPc (s : State) : (soundOff s).errPc = s.errPc := rfl
@[simp] theorem soundOff_sliceLeft (s : State) : (soundOff s).sliceLeft = s.sliceLeft := rfl
@[simp] theorem soundOff_ia (s : State) : (soundOff s).ia = s.ia := rfl
@[simp] theorem soundOff_ir (s : State) : (soundOff s).ir = s.ir := rfl
@[simp] theorem soundOff_cfg (s : State) : (soundOff s).cfg = s.cfg := rfl
@[simp] theorem soundOff_phase (s : State) : (soundOff s).phase = s.phase := rfl
@[simp] theorem soundOff_loaded (s : State) : (soundOff s).loaded = s.loaded := rfl
@[simp] theorem soundOff_wasReset (s : State) : (soundOff s).wasReset = s.wasReset := rfl
@[simp] theorem soundOff_draws (s : State) : (soundOff s).draws = s.draws := rfl
@[simp] theorem soundOff_hostMoves (s : State) : (soundOff s).hostMoves = s.hostMoves := rfl
@[simp] theorem soundOff_hookKeys (s : State) : (soundOff s).hookKeys = s.hookKeys := rfl

/-! ### `soundOn` -/

@[simp] theorem soundOn_v (s : State) : (soundOn s).v = s.v := rfl
@[simp] theorem soundOn_idx (s : State) : (soundOn s).idx = s.idx := rfl
@[simp] theorem soundOn_pc (s : State) : (soundOn s).pc = s.pc := rfl
@[simp] theorem soundOn_sp (s : State) : (soundOn s).sp = s.sp := rfl
@[simp] theorem soundOn_dt (s : State) : (soundOn s).dt = s.dt := rfl
@[simp] theorem soundOn_st (s : State) : (soundOn s).st = s.st := rfl
@[simp] theorem soundOn_mode (s : State) : (soundOn s).mode = s.mode := rfl
@[simp] theorem soundOn_phys (s : State) : (soundOn s).phys = s.phys := rfl
@[simp] theorem soundOn_rpl (s : State) : (soundOn s).rpl = s.rpl := rfl
@[simp] theorem soundOn_mem (s : State) : (soundOn s).mem = s.mem := rfl
@[simp] theorem soundOn_keys (s : State) : (soundOn s).keys = s.keys := rfl
@[simp] theorem soundOn_prevKeys (s : State) : (soundOn s).prevKeys = s.prevKeys := rfl
@[simp] theorem soundOn_kjpValid (s : State) : (soundOn s).kjpValid = s.kjpValid := rfl
@[simp] theorem soundOn_kjpKey (s : State) : (soundOn s).kjpKey = s.kjpKey := rfl
@[simp] theorem soundOn_run (s : State) : (soundOn s).run = s.run := rfl
@[simp] theorem soundOn_errReason (s : State) : (soundOn s).errReason = s.errReason := rfl
@[simp] theorem soundOn_errOpcode (s : State) : (soundOn s).errOpcode = s.errOpcode := rfl
@[simp] theorem soundOn_errPc (s : State) : (soundOn s).errPc = s.errPc := rfl
@[simp] theorem soundOn_sliceLeft (s : State) : (soundOn s).sliceLeft = s.sliceLeft := rfl
@[simp] theorem soundOn_ia (s : State) : (soundOn s).ia = s.ia := rfl
@[simp] theorem soundOn_ir (s : State) : (soundOn s).ir = s.ir := rfl
@[simp] theorem soundOn_cfg (s : State) : (soundOn s).cfg = s.cfg := rfl
@[simp] theorem soundOn_phase (s : State) : (soundOn s).phase = s.phase := rfl
@[simp] theorem soundOn_loaded (s : State) : (soundOn s).loaded = s.loaded := rfl
@[simp] theorem soundOn_wasReset (s : State) : (soundOn s).wasReset = s.wasReset := rfl
@[simp] theorem soundOn_draws (s : State) : (soundOn s).draws = s.draws := rfl
@[simp] theorem soundOn_hostMoves (s : State) : (soundOn s).hostMoves = s.hostMoves := rfl
@[simp] theorem soundOn_hookKeys (s : State) : (soundOn s).hookKeys = s.hookKeys := rfl

/-! ### `raiseError` -/

@[simp] theorem raiseError_v (s : State) (r : Reason) : (raiseError s r).v = s.v := rfl
@[simp] theorem raiseError_idx (s : State) (r : Reason) : (raiseError s r).idx = s.idx := rfl
@[simp] theorem raiseError_pc (s : State) (r : Reason) : (raiseError s r).pc = s.pc := rfl
@[simp] theorem raiseError_sp (s : State) (r : Reason) : (raiseError s r).sp = s.sp := rfl
@[simp] theorem raiseError_dt (s : State) (r : Reason) : (raiseError s r).dt = s.dt := rfl
@[simp] theorem raiseError_st (s : State) (r : Reason) : (raiseError s r).st = s.st := rfl
@[simp] theorem raiseError_sound (s : State) (r : Reason) : (raiseError s r).sound = s.sound := rfl
@[simp] theorem raiseError_mode (s : State) (r : Reason) : (raiseError s r).mode = s.mode := rfl
@[simp] theorem raiseError_phys (s : State) (r : Reason) : (raiseError s r).phys = s.phys := rfl
@[simp] theorem raiseError_rpl (s : State) (r : Reason) : (raiseError s r).rpl = s.rpl := rfl
@[simp] theorem raiseError_mem (s : State) (r : Reason) : (raiseError s r).mem = s.mem := rfl
@[simp] theorem raiseError_keys (s : State) (r : Reason) : (raiseError s r).keys = s.keys := rfl
@[simp] theorem raiseError_prevKeys (s : State) (r : Reason) : (raiseError s r).prevKeys = s.prevKeys := rfl
@[simp] theorem raiseError_kjpValid (s : State) (r : Reason) : (raiseError s r).kjpValid = s.kjpValid := rfl
@[simp] theorem raiseError_kjpKey (s : State) (r : Reason) : (raiseError s r).kjpKey = s.kjpKey := rfl
@[simp] theorem raiseError_sliceLeft (s : State) (r : Reason) : (raiseError s r).sliceLeft = s.sliceLeft := rfl
@[simp] theorem raiseError_ia (s : State) (r : Reason) : (raiseError s r).ia = s.ia := rfl
@[simp] theorem raiseError_ir (s : State) (r : Reason) : (raiseError s r).ir = s.ir := rfl
@[simp] theorem raiseError_cfg (s : State) (r : Reason) : (raiseError s r).cfg = s.cfg := rfl
@[simp] theorem raiseError_phase (s : State) (r : Reason) : (raiseError s r).phase = s.phase := rfl
@[simp] theorem raiseError_loaded (s : State) (r : Reason) : (raiseError s r).loaded = s.loaded := rfl
@[simp] theorem raiseError_wasReset (s : State) (r : Reason) : (raiseError s r).wasReset = s.wasReset := rfl
@[simp] theorem raiseError_draws (s : State) (r : Reason) : (raiseError s r).draws = s.draws := rfl
@[simp] theorem raiseError_hostMoves (s : State) (r : Reason) : (raiseError s r).hostMoves = s.hostMoves := rfl
@[simp] theorem raiseError_hookKeys (s : State) (r : Reason) : (raiseError s r).hookKeys = s.hookKeys := rfl

/-! ### `push` -/

@[simp] theorem push_v (s : State) (w : Word) : (push s w).v = s.v := rfl
@[simp] theorem push_idx (s : State) (w : Word) : (push s w).idx = s.idx := rfl
@[simp] theorem push_pc (s : State) (w : Word) : (push s w).pc = s.pc := rfl
@[simp] theorem push_dt (s : State) (w : Word) : (push s w).dt = s.dt := rfl
@[simp] theorem push_st (s : State) (w : Word) : (push s w).st = s.st := rfl
@[simp] theorem push_sound (s : State) (w : Word) : (push s w).sound = s.sound := rfl
@[simp] theorem push_mode (s : State) (w : Word) : (push s w).mode = s.mode := rfl
@[simp] theorem push_phys (s : State) (w : Word) : (push s w).phys = s.phys := rfl
@[simp] theorem push_rpl (s : State) (w : Word) : (push s w).rpl = s.rpl := rfl
@[simp] theorem push_keys (s : State) (w : Word) : (push s w).keys = s.keys := rfl
@[simp] theorem push_prevKeys (s : State) (w : Word) : (push s w).prevKeys = s.prevKeys := rfl
@[simp] theorem push_kjpValid (s : State) (w : Word) : (push s w).kjpValid = s.kjpValid := rfl
@[simp] theorem push_kjpKey (s : State) (w : Word) : (push s w).kjpKey = s.kjpKey := rfl
@[simp] theorem push_run (s : State) (w : Word) : (push s w).run = s.run := rfl
@[simp] theorem push_errReason (s : State) (w : Word) : (push s w).errReason = s.errReason := rfl
@[simp] theorem push_errOpcode (s : State) (w : Word) : (push s w).errOpcode = s.errOpcode := rfl
@[simp] theorem push_errPc (s : State) (w : Word) : (push s w).errPc = s.errPc := rfl
@[simp] theorem push_sliceLeft (s : State) (w : Word) : (push s w).sliceLeft = s.sliceLeft := rfl
@[simp] theorem push_ia (s : State) (w : Word) : (push s w).ia = s.ia := rfl
@[simp] theorem push_ir (s : State) (w : Word) : (push s w).ir = s.ir := rfl
@[simp] theorem push_cfg (s : State) (w : Word) : (push s w).cfg = s.cfg := rfl
@[simp] theorem push_phase (s : State) (w : Word) : (push s w).phase = s.phase := rfl
@[simp] theorem push_loaded (s : State) (w : Word) : (push s w).loaded = s.loaded := rfl
@[simp] theorem push_wasReset (s : State) (w : Word) : (push s w).wasReset = s.wasReset := rfl
@[simp] theorem push_draws (s : State) (w : Word) : (push s w).draws = s.draws := rfl
@[simp] theorem push_events (s : State) (w : Word) : (push s w).events = s.events := rfl
@[simp] theorem push_hostMoves (s : State) (w : Word) : (push s w).hostMoves = s.hostMoves := rfl
@[simp] theorem push_hookKeys (s : State) (w : Word) : (push s w).hookKeys = s.hookKeys := rfl

/-! ### `clearDisplay` -/

@[simp] theorem clearDisplay_v (s : State) : (clearDisplay s).v = s.v := rfl
@[simp] theorem clearDisplay_idx (s : State) : (clearDisplay s).idx = s.idx := rfl
@[simp] theorem clearDisplay_pc (s : State) : (clearDisplay s).pc = s.pc := rfl
@[simp] theorem clearDisplay_sp (s : State) : (clearDisplay s).sp = s.sp := rfl
@[simp] theorem clearDisplay_dt (s : State) : (clearDisplay s).dt = s.dt := rfl
@[simp] theorem clearDisplay_st (s : State) : (clearDisplay s).st = s.st := rfl
@[simp] theorem clearDisplay_sound (s : State) : (clearDisplay s).sound = s.sound := rfl
@[simp] theorem clearDisplay_mode (s : State) : (clearDisplay s).mode = s.mode := rfl
@[simp] theorem clearDisplay_rpl (s : State) : (clearDisplay s).rpl = s.rpl := rfl
@[simp] theorem clearDisplay_mem (s : State) : (clearDisplay s).mem = s.mem := rfl
@[simp] theorem clearDisplay_keys (s : State) : (clearDisplay s).keys = s.keys := rfl
@[simp] theorem clearDisplay_prevKeys (s : State) : (clearDisplay s).prevKeys = s.prevKeys := rfl
@[simp] theorem clearDisplay_kjpValid (s : State) : (clearDisplay s).kjpValid = s.kjpValid := rfl
@[simp] theorem clearDisplay_kjpKey (s : State) : (clearDisplay s).kjpKey = s.kjpKey := rfl
@[simp] theorem clearDisplay_run (s : State) : (clearDisplay s).run = s.run := rfl
@[simp] theorem clearDisplay_errReason (s : State) : (clearDisplay s).errReason = s.errReason := rfl
@[simp] theorem clearDisplay_errOpcode (s : State) : (clearDisplay s).errOpcode = s.errOpcode := rfl
@[simp] theorem clearDisplay_errPc (s : State) : (clearDisplay s).errPc = s.errPc := rfl
@[simp] theorem clearDisplay_sliceLeft (s : State) : (clearDisplay s).sliceLeft = s.sliceLeft := rfl
@[simp] theorem clearDisplay_ia (s : State) : (clearDisplay s).ia = s.ia := rfl
@[simp] theorem clearDisplay_ir (s : State) : (clearDisplay s).ir = s.ir := rfl
@[simp] theorem clearDisplay_cfg (s : State) : (clearDisplay s).cfg = s.cfg := rfl
@[simp] theorem clearDisplay_phase (s : State) : (clearDisplay s).phase = s.phase := rfl
@[simp] theorem clearDisplay_loaded (s : State) : (clearDisplay s).loaded = s.loaded := rfl
@[simp] theorem clearDisplay_wasReset (s : State) : (clearDisplay s).wasReset = s.wasReset := rfl
@[simp] theorem clearDisplay_draws (s : State) : (clearDisplay s).draws = s.draws := rfl
@[simp] theorem clearDisplay_events (s : State) : (clearDisplay s).events = s.events := rfl
@[simp] theorem clearDisplay_hostMoves (s : State) : (clearDisplay s).hostMoves = s.hostMoves := rfl
@[simp] theorem clearDisplay_hookKeys (s : State) : (clearDisplay s).hookKeys = s.hookKeys := rfl

/-! ### `switchMode` -/

@[simp] theorem switchMode_v (s : State) (m : Mode) : (switchMode s m).v = s.v := rfl
@[simp] theorem switchMode_idx (s : State) (m : Mode) : (switchMode s m).idx = s.idx := rfl
@[simp] theorem switchMode_pc (s : State) (m : Mode) : (switchMode s m).pc = s.pc := rfl
@[simp] theorem switchMode_sp (s : State) (m : Mode) : (switchMode s m).sp = s.sp := rfl
@[simp] theorem switchMode_dt (s : State) (m : Mode) : (switchMode s m).dt = s.dt := rfl
@[simp] theorem switchMode_st (s : State) (m : Mode) : (switchMode s m).st = s.st := rfl
@[simp] theorem switchMode_sound (s : State) (m : Mode) : (switchMode s m).sound = s.sound := rfl
@[simp] theorem switchMode_rpl (s : State) (m : Mode) : (switchMode s m).rpl = s.rpl := rfl
@[simp] theorem switchMode_mem (s : State) (m : Mode) : (switchMode s m).mem = s.mem := rfl
@[simp] theorem switchMode_keys (s : State) (m : Mode) : (switchMode s m).keys = s.keys := rfl
@[simp] theorem switchMode_prevKeys (s : State) (m : Mode) : (switchMode s m).prevKeys = s.prevKeys := rfl
@[simp] theorem switchMode_kjpValid (s : State) (m : Mode) : (switchMode s m).kjpValid = s.kjpValid := rfl
@[simp] theorem switchMode_kjpKey (s : State) (m : Mode) : (switchMode s m).kjpKey = s.kjpKey := rfl
@[simp] theorem switchMode_run (s : State) (m : Mode) : (switchMode s m).run = s.run := rfl
@[simp] theorem switchMode_errReason (s : State) (m : Mode) : (switchMode s m).errReason = s.errReason := rfl
@[simp] theorem switchMode_errOpcode (s : State) (m : Mode) : (switchMode s m).errOpcode = s.errOpcode := rfl
@[simp] theorem switchMode_errPc (s : State) (m : Mode) : (switchMode s m).errPc = s.errPc := rfl
@[simp] theorem switchMode_sliceLeft (s : State) (m : Mode) : (switchMode s m).sliceLeft = s.sliceLeft := rfl
@[simp] theorem switchMode_ia (s : State) (m : Mode) : (switchMode s m).ia = s.ia := rfl
@[simp] theorem switchMode_ir (s : State) (m : Mode) : (switchMode s m).ir = s.ir := rfl
@[simp] theorem switchMode_cfg (s : State) (m : Mode) : (switchMode s m).cfg = s.cfg := rfl
@[simp] theorem switchMode_phase (s : State) (m : Mode) : (switchMode s m).phase = s.phase := rfl
@[simp] theorem switchMode_loaded (s : State) (m : Mode) : (switchMode s m).loaded = s.loaded := rfl
@[simp] theorem switchMode_wasReset (s : State) (m : Mode) : (switchMode s m).wasReset = s.wasReset := rfl
@[simp] theorem switchMode_draws (s : State) (m : Mode) : (switchMode s m).draws = s.draws := rfl
@[simp] theorem switchMode_events (s : State) (m : Mode) : (switchMode s m).events = s.events := rfl
@[simp] theorem switchMode_hostMoves (s : State) (m : Mode) : (switchMode s m).hostMoves = s.hostMoves := rfl
@[simp] theorem switchMode_hookKeys (s : State) (m : Mode) : (switchMode s m).hookKeys = s.hookKeys := rfl

/-! ### `fetch` -/

@[simp] theorem fetch_v (s : State) : (fetch s).v = s.v := rfl
@[simp] theorem fetch_idx (s : State) : (fetch s).idx = s.idx := rfl
@[simp] theorem fetch_sp (s : State) : (fetch s).sp = s.sp := rfl
@[simp] theorem fetch_dt (s : State) : (fetch s).dt = s.dt := rfl
@[simp] theorem fetch_st (s : State) : (fetch s).st = s.st := rfl
@[simp] theorem fetch_sound (s : State) : (fetch s).sound = s.sound := rfl
@[simp] theorem fetch_mode (s : State) : (fetch s).mode = s.mode := rfl
@[simp] theorem fetch_phys (s : State) : (fetch s).phys = s.phys := rfl
@[simp] theorem fetch_rpl (s : State) : (fetch s).rpl = s.rpl := rfl
@[simp] theorem fetch_mem (s : State) : (fetch s).mem = s.mem := rfl
@[simp] theorem fetch_keys (s : State) : (fetch s).keys = s.keys := rfl
@[simp] theorem fetch_prevKeys (s : State) : (fetch s).prevKeys = s.prevKeys := rfl
@[simp] theorem fetch_kjpValid (s : State) : (fetch s).kjpValid = s.kjpValid := rfl
@[simp] theorem fetch_kjpKey (s : State) : (fetch s).kjpKey = s.kjpKey := rfl
@[simp] theorem fetch_run (s : State) : (fetch s).run = s.run := rfl
@[simp] theorem fetch_errReason (s : State) : (fetch s).errReason = s.errReason := rfl
@[simp] theorem fetch_errOpcode (s : State) : (fetch s).errOpcode = s.errOpcode := rfl
@[simp] theorem fetch_errPc (s : State) : (fetch s).errPc = s.errPc := rfl
@[simp] theorem fetch_sliceLeft (s : State) : (fetch s).sliceLeft = s.sliceLeft := rfl
@[simp] theorem fetch_cfg (s : State) : (fetch s).cfg = s.cfg := rfl
@[simp] theorem fetch_phase (s : State) : (fetch s).phase = s.phase := rfl
@[simp] theorem fetch_loaded (s : State) : (fetch s).loaded = s.loaded := rfl
@[simp] theorem fetch_wasReset (s : State) : (fetch s).wasReset = s.wasReset := rfl
@[simp] theorem fetch_draws (s : State) : (fetch s).draws = s.draws := rfl
@[simp] theorem fetch_events (s : State) : (fetch s).events = s.events := rfl
@[simp] theorem fetch_hostMoves (s : State) : (fetch s).hostMoves = s.hostMoves := rfl
@[simp] theorem fetch_hookKeys (s : State) : (fetch s).hookKeys = s.hookKeys := rfl

/-! ### `doReset` -/

@[simp] theorem doReset_rpl (s : State) : (doReset s).rpl = s.rpl := rfl
@[simp] theorem doReset_mem (s : State) : (doReset s).mem = s.mem := rfl
@[simp] theorem doReset_sliceLeft (s : State) : (doReset s).sliceLeft = s.sliceLeft := rfl
@[simp] theorem doReset_ia (s : State) : (doReset s).ia = s.ia := rfl
@[simp] theorem doReset_ir (s : State) : (doReset s).ir = s.ir := rfl
@[simp] theorem doReset_cfg (s : State) : (doReset s).cfg = s.cfg := rfl
@[simp] theorem doReset_phase (s : State) : (doReset s).phase = s.phase := rfl
@[simp] theorem doReset_loaded (s : State) : (doReset s).loaded = s.loaded := rfl
@[simp] theorem doReset_wasReset (s : State) : (doReset s).wasReset = true := rfl
@[simp] theorem doReset_draws (s : State) : (doReset s).draws = s.draws := rfl
@[simp] theorem doReset_hostMoves (s : State) : (doReset s).hostMoves = s.hostMoves := rfl
@[simp] theorem doReset_hookKeys (s : State) : (doReset s).hookKeys = s.hookKeys := rfl

/-! ### `memWriteBytes` and `skipIf` -/

/-- A store of bytes writes memory and nothing else. -/
theorem memWriteBytes_frame (s : State) (a : Nat) (bs : List Byte) :
    memWriteBytes s a bs = { s with mem := (memWriteBytes s a bs).mem } := by
  induction bs generalizing s a with
  | nil => rfl
  | cons b bs ih => rw [memWriteBytes, ih]; rfl

/-- A skip writes `PC` and nothing else. -/
theorem skipIf_frame (b : Bool) (s : State) : skipIf b s = { s with pc := (skipIf b s).pc } := by
  cases b <;> rfl

@[simp] theorem memWriteBytes_v (s : State) (a : Nat) (bs : List Byte) : (memWriteBytes s a bs).v = s.v :=
  by rw [memWriteBytes_frame]
@[simp] theorem memWriteBytes_idx (s : State) (a : Nat) (bs : List Byte) : (memWriteBytes s a bs).idx = s.idx :=
  by rw [memWriteBytes_frame]
@[simp] theorem memWriteBytes_pc (s : State) (a : Nat) (bs : List Byte) : (memWriteBytes s a bs).pc = s.pc :=
  by rw [memWriteBytes_frame]
@[simp] theorem memWriteBytes_sp (s : State) (a : Nat) (bs : List Byte) : (memWriteBytes s a bs).sp = s.sp :=
  by rw [memWriteBytes_frame]
@[simp] theorem memWriteBytes_dt (s : State) (a : Nat) (bs : List Byte) : (memWriteBytes s a bs).dt = s.dt :=
  by rw [memWriteBytes_frame]
@[simp] theorem memWriteBytes_st (s : State) (a : Nat) (bs : List Byte) : (memWriteBytes s a bs).st = s.st :=
  by rw [memWriteBytes_frame]
@[simp] theorem memWriteBytes_sound (s : State) (a : Nat) (bs : List Byte) : (memWriteBytes s a bs).sound = s.sound :=
  by rw [memWriteBytes_frame]
@[simp] theorem memWriteBytes_mode (s : State) (a : Nat) (bs : List Byte) : (memWriteBytes s a bs).mode = s.mode :=
  by rw [memWriteBytes_frame]
@[simp] theorem memWriteBytes_phys (s : State) (a : Nat) (bs : List Byte) : (memWriteBytes s a bs).phys = s.phys :=
  by rw [memWriteBytes_frame]
@[simp] theorem memWriteBytes_rpl (s : State) (a : Nat) (bs : List Byte) : (memWriteBytes s a bs).rpl = s.rpl :=
  by rw [memWriteBytes_frame]
@[simp] theorem memWriteBytes_keys (s : State) (a : Nat) (bs : List Byte) : (memWriteBytes s a bs).keys = s.keys :=
  by rw [memWriteBytes_frame]
@[simp] theorem memWriteBytes_prevKeys (s : State) (a : Nat) (bs : List Byte) : (memWriteBytes s a bs).prevKeys = s.prevKeys :=
  by rw [memWriteBytes_frame]
@[simp] theorem memWriteBytes_kjpValid (s : State) (a : Nat) (bs : List Byte) : (memWriteBytes s a bs).kjpValid = s.kjpValid :=
  by rw [memWriteBytes_frame]
@[simp] theorem memWriteBytes_kjpKey (s : State) (a : Nat) (bs : List Byte) : (memWriteBytes s a bs).kjpKey = s.kjpKey :=
  by rw [memWriteBytes_frame]
@[simp] theorem memWriteBytes_run (s : State) (a : Nat) (bs : List Byte) : (memWriteBytes s a bs).run = s.run :=
  by rw [memWriteBytes_frame]
@[simp] theorem memWriteBytes_errReason (s : State) (a : Nat) (bs : List Byte) : (memWriteBytes s a bs).errReason = s.errReason :=
  by rw [memWriteBytes_frame]
@[simp] theorem memWriteBytes_errOpcode (s : State) (a : Nat) (bs : List Byte) : (memWriteBytes s a bs).errOpcode = s.errOpcode :=
  by rw [memWriteBytes_frame]
@[simp] theorem memWriteBytes_errPc (s : State) (a : Nat) (bs : List Byte) : (memWriteBytes s a bs).errPc = s.errPc :=
  by rw [memWriteBytes_frame]
@[simp] theorem memWriteBytes_sliceLeft (s : State) (a : Nat) (bs : List Byte) : (memWriteBytes s a bs).sliceLeft = s.sliceLeft :=
  by rw [memWriteBytes_frame]
@[simp] theorem memWriteBytes_ia (s : State) (a : Nat) (bs : List Byte) : (memWriteBytes s a bs).ia = s.ia :=
  by rw [memWriteBytes_frame]
@[simp] theorem memWriteBytes_ir (s : State) (a : Nat) (bs : List Byte) : (memWriteBytes s a bs).ir = s.ir :=
  by rw [memWriteBytes_frame]
@[simp] theorem memWriteBytes_cfg (s : State) (a : Nat) (bs : List Byte) : (memWriteBytes s a bs).cfg = s.cfg :=
  by rw [memWriteBytes_frame]
@[simp] theorem memWriteBytes_phase (s : State) (a : Nat) (bs : List Byte) : (memWriteBytes s a bs).phase = s.phase :=
  by rw [memWriteBytes_frame]
@[simp] theorem memWriteBytes_loaded (s : State) (a : Nat) (bs : List Byte) : (memWriteBytes s a bs).loaded = s.loaded :=
  by rw [memWriteBytes_frame]
@[simp] theorem memWriteBytes_wasReset (s : State) (a : Nat) (bs : List Byte) : (memWriteBytes s a bs).wasReset = s.wasReset :=
  by rw [memWriteBytes_frame]
@[simp] theorem memWriteBytes_draws (s : State) (a : Nat) (bs : List Byte) : (memWriteBytes s a bs).draws = s.draws :=
  by rw [memWriteBytes_frame]
@[simp] theorem memWriteBytes_events (s : State) (a : Nat) (bs : List Byte) : (memWriteBytes s a bs).events = s.events :=
  by rw [memWriteBytes_frame]
@[simp] theorem memWriteBytes_hostMoves (s : State) (a : Nat) (bs : List Byte) : (memWriteBytes s a bs).hostMoves = s.hostMoves :=
  by rw [memWriteBytes_frame]
@[simp] theorem memWriteBytes_hookKeys (s : State) (a : Nat) (bs : List Byte) : (memWriteBytes s a bs).hookKeys = s.hookKeys :=
  by rw [memWriteBytes_frame]

@[simp] theorem skipIf_v (b : Bool) (s : State) : (skipIf b s).v = s.v := by rw [skipIf_frame]
@[simp] theorem skipIf_idx (b : Bool) (s : State) : (skipIf b s).idx = s.idx := by rw [skipIf_frame]
@[simp] theorem skipIf_sp (b : Bool) (s : State) : (skipIf b s).sp = s.sp := by rw [skipIf_frame]
@[simp] theorem skipIf_dt (b : Bool) (s : State) : (skipIf b s).dt = s.dt := by rw [skipIf_frame]
@[simp] theorem skipIf_st (b : Bool) (s : State) : (skipIf b s).st = s.st := by rw [skipIf_frame]
@[simp] theorem skipIf_sound (b : Bool) (s : State) : (skipIf b s).sound = s.sound := by rw [skipIf_frame]
@[simp] theorem skipIf_mode (b : Bool) (s : State) : (skipIf b s).mode = s.mode := by rw [skipIf_frame]
@[simp] theorem skipIf_phys (b : Bool) (s : State) : (skipIf b s).phys = s.phys := by rw [skipIf_frame]
@[simp] theorem skipIf_rpl (b : Bool) (s : State) : (skipIf b s).rpl = s.rpl := by rw [skipIf_frame]
@[simp] theorem skipIf_mem (b : Bool) (s : State) : (skipIf b s).mem = s.mem := by rw [skipIf_frame]
@[simp] theorem skipIf_keys (b : Bool) (s : State) : (skipIf b s).keys = s.keys := by rw [skipIf_frame]
@[simp] theorem skipIf_prevKeys (b : Bool) (s : State) : (skipIf b s).prevKeys = s.prevKeys := by rw [skipIf_frame]
@[simp] theorem skipIf_kjpValid (b : Bool) (s : State) : (skipIf b s).kjpValid = s.kjpValid := by rw [skipIf_frame]
@[simp] theorem skipIf_kjpKey (b : Bool) (s : State) : (skipIf b s).kjpKey = s.kjpKey := by rw [skipIf_frame]
@[simp] theorem skipIf_run (b : Bool) (s : State) : (skipIf b s).run = s.run := by rw [skipIf_frame]
@[simp] theorem skipIf_errReason (b : Bool) (s : State) : (skipIf b s).errReason = s.errReason := by rw [skipIf_frame]
@[simp] theorem skipIf_errOpcode (b : Bool) (s : State) : (skipIf b s).errOpcode = s.errOpcode := by rw [skipIf_frame]
@[simp] theorem skipIf_errPc (b : Bool) (s : State) : (skipIf b s).errPc = s.errPc := by rw [skipIf_frame]
@[simp] theorem skipIf_sliceLeft (b : Bool) (s : State) : (skipIf b s).sliceLeft = s.sliceLeft := by rw [skipIf_frame]
@[simp] theorem skipIf_ia (b : Bool) (s : State) : (skipIf b s).ia = s.ia := by rw [skipIf_frame]
@[simp] theorem skipIf_ir (b : Bool) (s : State) : (skipIf b s).ir = s.ir := by rw [skipIf_frame]
@[simp] theorem skipIf_cfg (b : Bool) (s : State) : (skipIf b s).cfg = s.cfg := by rw [skipIf_frame]
@[simp] theorem skipIf_phase (b : Bool) (s : State) : (skipIf b s).phase = s.phase := by rw [skipIf_frame]
@[simp] theorem skipIf_loaded (b : Bool) (s : State) : (skipIf b s).loaded = s.loaded := by rw [skipIf_frame]
@[simp] theorem skipIf_wasReset (b : Bool) (s : State) : (skipIf b s).wasReset = s.wasReset := by rw [skipIf_frame]
@[simp] theorem skipIf_draws (b : Bool) (s : State) : (skipIf b s).draws = s.draws := by rw [skipIf_frame]
@[simp] theorem skipIf_events (b : Bool) (s : State) : (skipIf b s).events = s.events := by rw [skipIf_frame]
@[simp] theorem skipIf_hostMoves (b : Bool) (s : State) : (skipIf b s).hostMoves = s.hostMoves := by rw [skipIf_frame]
@[simp] theorem skipIf_hookKeys (b : Bool) (s : State) : (skipIf b s).hookKeys = s.hookKeys := by rw [skipIf_frame]

/-! ### The fields that an update writes -/

/-- A taken skip passes over one word (R100). -/
@[simp] theorem skipIf_pc_toNat (b : Bool) (s : State) :
    (skipIf b s).pc.toNat = if b then (s.pc.toNat + 2) % 4096 else s.pc.toNat := by
  cases b
  · rfl
  · simp only [skipIf, skip, setPc, memSize, BitVec.toNat_ofNat, if_true]
    omega

@[simp] theorem setPc_pc_toNat (s : State) (a : Nat) : (setPc s a).pc.toNat = a % 4096 := by
  simp only [setPc, memSize, BitVec.toNat_ofNat]
  omega

@[simp] theorem emit_events (s : State) (e : Event) : (emit s e).events = s.events ++ [e] := rfl
@[simp] theorem soundOff_sound (s : State) : (soundOff s).sound = false := rfl
@[simp] theorem soundOff_events (s : State) : (soundOff s).events = s.events ++ [.soundOff] := rfl
@[simp] theorem soundOn_sound (s : State) : (soundOn s).sound = true := rfl
@[simp] theorem soundOn_events (s : State) : (soundOn s).events = s.events ++ [.soundOn] := rfl
@[simp] theorem raiseError_errReason (s : State) (r : Reason) : (raiseError s r).errReason = r := rfl
@[simp] theorem raiseError_errOpcode (s : State) (r : Reason) : (raiseError s r).errOpcode = s.ir := rfl
@[simp] theorem raiseError_errPc (s : State) (r : Reason) : (raiseError s r).errPc = s.ia := rfl
@[simp] theorem raiseError_run (s : State) (r : Reason) : (raiseError s r).run = runAfterError s := rfl
@[simp] theorem raiseError_events (s : State) (r : Reason) :
    (raiseError s r).events = s.events ++ [.error r s.ir s.ia] := rfl
@[simp] theorem push_sp (s : State) (w : Word) : (push s w).sp = s.sp - 2 := rfl
@[simp] theorem clearDisplay_phys (s : State) : (clearDisplay s).phys = darkPhys := rfl
@[simp] theorem switchMode_phys (s : State) (m : Mode) : (switchMode s m).phys = darkPhys := rfl
@[simp] theorem switchMode_mode (s : State) (m : Mode) : (switchMode s m).mode = m := rfl
@[simp] theorem fetch_ia (s : State) : (fetch s).ia = s.pc := rfl
@[simp] theorem fetch_ir (s : State) : (fetch s).ir = memWord s s.pc.toNat := rfl
@[simp] theorem fetch_pc_toNat (s : State) : (fetch s).pc.toNat = (s.pc.toNat + 2) % 4096 := setPc_pc_toNat _ _
@[simp] theorem doReset_idx (s : State) : (doReset s).idx = 0 := rfl
@[simp] theorem doReset_pc (s : State) : (doReset s).pc = 0x0200 := rfl
@[simp] theorem doReset_sp (s : State) : (doReset s).sp = s.cfg.stackTop := rfl
@[simp] theorem doReset_dt (s : State) : (doReset s).dt = 0 := rfl
@[simp] theorem doReset_st (s : State) : (doReset s).st = 0 := rfl
@[simp] theorem doReset_sound (s : State) : (doReset s).sound = false := rfl
@[simp] theorem doReset_mode (s : State) : (doReset s).mode = .standard := rfl
@[simp] theorem doReset_phys (s : State) : (doReset s).phys = darkPhys := rfl
@[simp] theorem doReset_keys (s : State) : (doReset s).keys = 0 := rfl
@[simp] theorem doReset_prevKeys (s : State) : (doReset s).prevKeys = 0 := rfl
@[simp] theorem doReset_kjpValid (s : State) : (doReset s).kjpValid = false := rfl
@[simp] theorem doReset_kjpKey (s : State) : (doReset s).kjpKey = 0 := rfl
@[simp] theorem doReset_run (s : State) : (doReset s).run = .running := rfl
@[simp] theorem doReset_errReason (s : State) : (doReset s).errReason = .none := rfl
@[simp] theorem doReset_errOpcode (s : State) : (doReset s).errOpcode = 0 := rfl
@[simp] theorem doReset_errPc (s : State) : (doReset s).errPc = 0 := rfl
@[simp] theorem doReset_events (s : State) : (doReset s).events = s.events ++ [.soundOff] := rfl

/-! ### General registers and flag storage -/

/-- A register reads what was last written to it; the others are left alone. -/
@[simp] theorem getV_setV (s : State) (x y : Nibble) (b : Byte) :
    getV (setV s x b) y = if y = x then b else getV s y := by
  by_cases h : y = x
  · subst h; simp [getV, setV]
  · have : x.toNat ≠ y.toNat := fun e => h (BitVec.eq_of_toNat_eq e.symm)
    simp [getV, setV, this, h]

/-- The flag wins over the result where the destination is `VF` (R130). -/
@[simp] theorem getV_setVFlag (s : State) (x y : Nibble) (r f : Byte) :
    getV (setVFlag s x r f) y = if y = 0xF#4 then f else if y = x then r else getV s y := by
  simp [setVFlag]

/-- After reset every general register reads 0. -/
@[simp] theorem getV_doReset (s : State) (x : Nibble) : getV (doReset s) x = 0 := by
  simp [getV, doReset]

/-- Registers are read from the field `v` alone. -/
theorem getV_congr {s t : State} (h : t.v = s.v) (x : Nibble) : getV t x = getV s x := by
  simp [getV, h]

/-- Flag storage is read from the field `rpl` alone. -/
theorem getRpl_congr {s t : State} (h : t.rpl = s.rpl) (k : Nat) : getRpl t k = getRpl s k := by
  simp [getRpl, h]

/-- A byte of flag storage reads what was last written to it; there are eight (R33). -/
@[simp] theorem getRpl_setRpl (s : State) (k j : Nat) (b : Byte) :
    getRpl (setRpl s k b) j = if j = k ∧ k < 8 then b else getRpl s j := by
  simp only [getRpl, setRpl, Vector.getElem?_setIfInBounds]
  split <;> split <;> simp_all

end Sys2Proof.Machine
end

