-- ==== Sys2Proof/Laws/Display.lean ====
section
/-! SUPPORT. Laws/Display.lean: what the cells and the logical pixels read after they are written (spec/10_state.md R40-R43). -/

namespace Sys2Proof.Machine

theorem getLsbD_rowSet (row : Row) (c c' : Nat) (b : Bool) :
    (rowSet row c b).getLsbD c' = if c' = c ∧ c < 128 then b else row.getLsbD c' := by
  unfold rowSet
  cases b <;> simp only [if_true, Bool.false_eq_true, if_false, BitVec.getLsbD_or, BitVec.getLsbD_and, BitVec.getLsbD_not,
    BitVec.getLsbD_shiftLeft, BitVec.getLsbD_one]
  all_goals
    by_cases h1 : c' < 128
    · by_cases h2 : c' = c
      · subst h2; simp [h1]
      · by_cases h3 : c' < c
        · simp [h1, h2, h3]
        · simp [h1, h2, h3, show c' - c ≠ 0 by omega]
    · have : row.getLsbD c' = false := BitVec.getLsbD_of_ge _ _ (by omega)
      simp [h1, this, show ¬(c' = c ∧ c < 128) by omega]

theorem rowAt_setIfInBounds (p : Phys) (r r' : Nat) (row : Row) :
    rowAt (p.setIfInBounds r row) r' = if r' = r ∧ r < 64 then row else rowAt p r' := by
  simp only [rowAt, Vector.getElem?_setIfInBounds]
  split <;> split <;> simp_all

/-- A cell reads what was last written to it; the others are left alone (R41). -/
theorem physLit_setCell (p : Phys) (r c r' c' : Nat) (b : Bool) :
    physLit (setCell p r c b) r' c' = if r' = r ∧ c' = c ∧ r < 64 ∧ c < 128 then b else physLit p r' c' := by
  simp only [physLit, setCell, rowAt_setIfInBounds]
  by_cases h : r' = r ∧ r < 64
  · rw [if_pos h, getLsbD_rowSet]
    obtain ⟨rfl, h⟩ := h
    simp [h]
  · rw [if_neg h, if_neg (by tauto)]

/-- The cells that `SetPix` reaches, in both modes (R41). -/
theorem physLit_setPix_standard (p : Phys) (c r r' c' : Nat) (b : Bool) (hc : c < 64) (hr : r < 32) :
    physLit (setPix .standard p c r b) r' c' = if r' / 2 = r ∧ c' / 2 = c then b else physLit p r' c' := by
  simp only [setPix, physLit_setCell]
  by_cases h : r' / 2 = r ∧ c' / 2 = c
  · rw [if_pos h]
    rcases (by omega : (r' = 2 * r ∧ c' = 2 * c) ∨ (r' = 2 * r ∧ c' = 2 * c + 1) ∨ (r' = 2 * r + 1 ∧ c' = 2 * c) ∨
      (r' = 2 * r + 1 ∧ c' = 2 * c + 1)) with ⟨rfl, rfl⟩ | ⟨rfl, rfl⟩ | ⟨rfl, rfl⟩ | ⟨rfl, rfl⟩
    all_goals (repeat' split) <;> first | rfl | omega
  · rw [if_neg h]
    (repeat' split) <;> first | rfl | omega

theorem physLit_setPix_extended (p : Phys) (c r r' c' : Nat) (b : Bool) (hc : c < 128) (hr : r < 64) :
    physLit (setPix .extended p c r b) r' c' = if r' = r ∧ c' = c then b else physLit p r' c' := by
  simp only [setPix, physLit_setCell]
  simp [hc, hr]

/-- A logical pixel reads what was last written to it; the others are left alone (R40, R41). -/
theorem pix_setPix (m : Mode) (p : Phys) (c r c' r' : Nat) (b : Bool) (hc : c < gridW m) (hr : r < gridH m) :
    pix m (setPix m p c r b) c' r' = if c' = c ∧ r' = r then b else pix m p c' r' := by
  cases m with
  | standard =>
    simp only [pix, physLit_setPix_standard p c r _ _ b hc hr]
    by_cases h : c' = c ∧ r' = r
    · rw [if_pos h, if_pos (by omega)]
    · rw [if_neg h, if_neg (by omega)]
  | extended =>
    simp only [pix, physLit_setPix_extended p c r _ _ b hc hr]
    by_cases h : c' = c ∧ r' = r
    · rw [if_pos h, if_pos h.symm]
    · rw [if_neg h, if_neg (fun e => h e.symm)]

/-- Every cell of the cleared buffer is dark (R43). -/
@[simp] theorem physLit_darkPhys (r c : Nat) : physLit darkPhys r c = false := by
  simp only [physLit, rowAt, darkPhys, Vector.getElem?_replicate]
  split <;> simp

@[simp] theorem physByte_darkPhys (r c : Nat) : physByte darkPhys r c = 0 := by simp [physByte]

@[simp] theorem pix_darkPhys (m : Mode) (c r : Nat) : pix m darkPhys c r = false := by cases m <;> simp [pix]

theorem getLsbD_rowOf (f : Nat → Bool) (n c : Nat) (h : n ≤ 128) :
    (rowOf f n).getLsbD c = if c < n then f c else false := by
  induction n with
  | zero => simp [rowOf]
  | succ n ih =>
    rw [rowOf, getLsbD_rowSet, ih (by omega)]
    by_cases h1 : c = n
    · subst h1; simp [show c < 128 by omega]
    · rw [if_neg (by omega)]
      by_cases h2 : c < n
      · rw [if_pos h2, if_pos (by omega)]
      · rw [if_neg h2, if_neg (by omega)]

/-- A built buffer reads its function inside the buffer. -/
theorem physLit_physOf (f : Nat → Nat → Bool) (r c : Nat) (hr : r < 64) (hc : c < 128) :
    physLit (physOf f) r c = f r c := by
  simp only [physLit, rowAt, physOf, Vector.getElem?_ofFn, hr, dif_pos, Option.getD_some]
  rw [getLsbD_rowOf (f r) extW c (by decide), if_pos (show c < extW from hc)]

/-- After the whole grid is rewritten, every logical pixel reads what it was rewritten with (R188). -/
theorem pix_rewriteGrid (m : Mode) (new : Nat → Nat → Bool) (c r : Nat) (hc : c < gridW m) (hr : r < gridH m) :
    pix m (rewriteGrid m new) c r = new c r := by
  cases m with
  | standard =>
    have hc : c < 64 := hc
    have hr : r < 32 := hr
    simp only [pix, rewriteGrid]
    rw [physLit_physOf _ _ _ (by omega) (by omega)]
    congr 1 <;> omega
  | extended =>
    simp only [pix, rewriteGrid]
    exact physLit_physOf _ _ _ hr hc

/-- In standard mode the rewritten buffer is made of equal blocks (R41). -/
theorem physLit_rewriteGrid_standard (new : Nat → Nat → Bool) (r c : Nat) (hr : r < 64) (hc : c < 128) :
    physLit (rewriteGrid .standard new) r c = new (c / 2) (r / 2) := by
  simp only [rewriteGrid]
  exact physLit_physOf _ _ _ hr hc

end Sys2Proof.Machine
end

