-- ==== Sys2Proof/Laws/Draw.lean ====
section
/-! SUPPORT. Laws/Draw.lean: what the draw's loops do, said once over the cells of the buffer (spec/44_sprite_draw.md R200, R203). -/

namespace Sys2Proof.Machine

open Sys2Proof.Safety

/-! ### The numbers of the rules, and the operations' own -/

theorem gridCols_eq (m : Mode) : gridCols m = gridW m := by cases m <;> rfl
theorem gridRows_eq (m : Mode) : gridRows m = gridH m := by cases m <;> rfl

/-- The lit pixel of R40 is the pixel the operations read. -/
theorem pixelLit_eq (m : Mode) (p : Phys) (c r : Nat) : pixelLit m p c r = pix m p c r := by
  have hb : ∀ r c, (physByte p r c == 0xFF) = physLit p r c := by
    intro r c
    unfold physByte
    cases physLit p r c <;> rfl
  cases m <;> exact hb _ _

/-- R202's table is the geometry the draw uses. -/
theorem geometry_eq (m : Mode) (n : Nibble) : geometry m n = ⟨spriteRows m n, spriteWidth m n, spriteBytesPerRow m n⟩ := by
  cases m
  · rfl
  · have hn : n = 0 ↔ n.toNat = 0 := ⟨fun h => by rw [h]; rfl, fun h => BitVec.eq_of_toNat_eq h⟩
    simp only [geometry, spriteRows, spriteWidth, spriteBytesPerRow, hn]
    split <;> rfl

/-- The pixels a draw toggles, in terms of the operations of its meaning. -/
theorem toggles_iff (s : State) (x y n : Nibble) (c r : Nat) :
    Toggles s x y n c r ↔
      (getV s y).toNat % gridH s.mode ≤ r ∧ r - (getV s y).toNat % gridH s.mode < (geometry s.mode n).rows ∧
      (c + gridW s.mode - (getV s x).toNat % gridW s.mode) % gridW s.mode < (geometry s.mode n).width ∧
      spriteBit s (geometry s.mode n) (r - (getV s y).toNat % gridH s.mode)
        ((c + gridW s.mode - (getV s x).toNat % gridW s.mode) % gridW s.mode) = true := by
  simp only [Toggles, spriteRow, spriteCol, spriteBit, idxPlus, geometry_eq, gridCols_eq, gridRows_eq]

/-- A draw collides exactly where it toggles a pixel that the operations read as lit. -/
theorem collides_iff (s : State) (x y n : Nibble) :
    Collides s x y n ↔ ∃ c r, c < gridW s.mode ∧ r < gridH s.mode ∧ Toggles s x y n c r ∧ pix s.mode s.phys c r = true := by
  simp only [Collides, pixelLit_eq, gridCols_eq, gridRows_eq]

/-! ### Cells and pixels -/

/-- A pixel is the cell at the origin of its block. -/
theorem pix_eq_physLit (m : Mode) (p : Phys) (r c : Nat) :
    (m = .extended → pix m p (cellCol m c) (cellRow m r) = physLit p r c) ∧
    (m = .standard → pix m p (cellCol m c) (cellRow m r) = physLit p (r / 2 * 2) (c / 2 * 2)) := by
  constructor <;> rintro rfl
  · rfl
  · simp only [pix, cellCol, cellRow, Nat.mul_comm]

theorem cellCol_lt (m : Mode) {c : Nat} (h : c < 128) : cellCol m c < gridW m := by
  cases m
  · show c / 2 < 64; omega
  · exact h

theorem cellRow_lt (m : Mode) {r : Nat} (h : r < 64) : cellRow m r < gridH m := by
  cases m
  · show r / 2 < 32; omega
  · exact h

/-- `SetPix` writes exactly the cells of its pixel (R41). -/
theorem physLit_setPix (m : Mode) (p : Phys) (c r r' c' : Nat) (b : Bool) (hc : c < gridW m) (hr : r < gridH m) :
    physLit (setPix m p c r b) r' c' = if cellRow m r' = r ∧ cellCol m c' = c then b else physLit p r' c' := by
  cases m with
  | standard => exact physLit_setPix_standard p c r r' c' b hc hr
  | extended => exact physLit_setPix_extended p c r r' c' b hc hr

/-- After the whole grid is rewritten, every cell is that of its pixel (R188, R41). -/
theorem physLit_rewriteGrid (m : Mode) (new : Nat → Nat → Bool) (r c : Nat) (hr : r < 64) (hc : c < 128) :
    physLit (rewriteGrid m new) r c = new (cellCol m c) (cellRow m r) := by
  cases m
  · exact physLit_rewriteGrid_standard new r c hr hc
  · simp only [rewriteGrid, cellCol, cellRow]
    exact physLit_physOf (fun r c => new c r) r c hr hc

/-- The cells of a scroll's result (R182-R184, R188). -/
theorem physByte_scroll (s : State) (new : (Nat → Nat → Bool) → Nat → Nat → Bool) (r c : Nat) (hr : r < 64) (hc : c < 128) :
    physByte (scroll s new).phys r c =
      if new (pixelLit s.mode s.phys) (cellCol s.mode c) (cellRow s.mode r) = true then 0xFF else 0x00 := by
  rw [show pixelLit s.mode s.phys = pix s.mode s.phys from funext fun c => funext fun r => pixelLit_eq ..]
  simp only [physByte, scroll, physLit_rewriteGrid _ _ r c hr hc]

/-- The column of the grid that column `k` of the sprite falls on, read backwards. -/
theorem add_mod_eq_iff {w x0 k c : Nat} (hx : x0 < w) (hk : k < w) (hc : c < w) :
    (x0 + k) % w = c ↔ (c + w - x0) % w = k := by
  have h1 : (x0 + k) % w = if x0 + k < w then x0 + k else x0 + k - w := by
    split
    · exact Nat.mod_eq_of_lt ‹_›
    · rw [Nat.mod_eq_sub_mod (by omega), Nat.mod_eq_of_lt (by omega)]
  have h2 : (c + w - x0) % w = if c + w - x0 < w then c + w - x0 else c + w - x0 - w := by
    split
    · exact Nat.mod_eq_of_lt ‹_›
    · rw [Nat.mod_eq_sub_mod (by omega), Nat.mod_eq_of_lt (by omega)]
  rw [h1, h2]
  split <;> split <;> omega

/-- One sprite row that is on the grid, after its first `n` columns. -/
theorem drawBits_spec (s : State) (g : Geometry) {x0 y0 r : Nat} (hx : x0 < gridW s.mode) (hy : y0 + r < gridH s.mode) (d : Drawing)
    (n : Nat) (hn : n ≤ gridW s.mode) :
    (∀ r' c', c' < 128 →
      physLit ((List.range n).foldl (drawBit s g x0 y0 r) d).phys r' c' =
        if cellRow s.mode r' = y0 + r ∧ (cellCol s.mode c' + gridW s.mode - x0) % gridW s.mode < n ∧
            spriteBit s g r ((cellCol s.mode c' + gridW s.mode - x0) % gridW s.mode) = true
        then !pix s.mode d.phys (cellCol s.mode c') (cellRow s.mode r') else physLit d.phys r' c') ∧
    (∀ c, c < gridW s.mode → ¬ (c + gridW s.mode - x0) % gridW s.mode < n →
      pix s.mode ((List.range n).foldl (drawBit s g x0 y0 r) d).phys c (y0 + r) = pix s.mode d.phys c (y0 + r)) ∧
    (((List.range n).foldl (drawBit s g x0 y0 r) d).hit = true ↔
      d.hit = true ∨ ∃ k, k < n ∧ spriteBit s g r k = true ∧ pix s.mode d.phys ((x0 + k) % gridW s.mode) (y0 + r) = true) := by
  have hw : 0 < gridW s.mode := by omega
  induction n with
  | zero => simp
  | succ n ih =>
    obtain ⟨ih1, ih2, ih3⟩ := ih (by omega)
    rw [List.range_succ, List.foldl_append, List.foldl_cons, List.foldl_nil]
    generalize (List.range n).foldl (drawBit s g x0 y0 r) d = e at ih1 ih2 ih3
    have hpx : (x0 + n) % gridW s.mode < gridW s.mode := Nat.mod_lt _ hw
    have hback : ∀ c, c < gridW s.mode → ((x0 + n) % gridW s.mode = c ↔ (c + gridW s.mode - x0) % gridW s.mode = n) :=
      fun c hc => add_mod_eq_iff hx (by omega) hc
    have hold : pix s.mode e.phys ((x0 + n) % gridW s.mode) (y0 + r) = pix s.mode d.phys ((x0 + n) % gridW s.mode) (y0 + r) :=
      ih2 _ hpx (by rw [(hback _ hpx).1 rfl]; omega)
    by_cases hb : spriteBit s g r n = true
    · have hd : drawBit s g x0 y0 r e n =
          ⟨setPix s.mode e.phys ((x0 + n) % gridW s.mode) (y0 + r) (!pix s.mode e.phys ((x0 + n) % gridW s.mode) (y0 + r)),
            e.hit || pix s.mode e.phys ((x0 + n) % gridW s.mode) (y0 + r)⟩ := by rw [drawBit, if_pos hb]
      rw [hd]
      refine ⟨fun r' c' hc' => ?_, fun c hc hcn => ?_, ?_⟩
      · have hcl := cellCol_lt s.mode hc'
        simp only [physLit_setPix _ _ _ _ _ _ _ hpx hy]
        by_cases hh : cellRow s.mode r' = y0 + r ∧ cellCol s.mode c' = (x0 + n) % gridW s.mode
        · have hk := (hback _ hcl).1 hh.2.symm
          rw [if_pos hh, if_pos ⟨hh.1, by omega, by rw [hk]; exact hb⟩, hold, hh.1, hh.2]
        · rw [if_neg hh, ih1 r' c' hc']
          have hk : cellRow s.mode r' = y0 + r → (cellCol s.mode c' + gridW s.mode - x0) % gridW s.mode ≠ n :=
            fun e1 e2 => hh ⟨e1, ((hback _ hcl).2 e2).symm⟩
          congr 1
          apply propext
          constructor
          · rintro ⟨a, b, c⟩; exact ⟨a, by omega, c⟩
          · rintro ⟨a, b, c⟩; exact ⟨a, by have := hk a; omega, c⟩
      · simp only
        rw [pix_setPix _ _ _ _ _ _ _ hpx hy, if_neg, ih2 c hc (by omega)]
        rintro ⟨e1, -⟩
        have := (hback c hc).1 e1.symm
        omega
      · simp only [Bool.or_eq_true, ih3, hold]
        constructor
        · rintro ((h | ⟨k, hk, h⟩) | h)
          · exact .inl h
          · exact .inr ⟨k, by omega, h⟩
          · exact .inr ⟨n, by omega, hb, h⟩
        · rintro (h | ⟨k, hk, h1, h2⟩)
          · exact .inl (.inl h)
          · by_cases hkn : k = n
            · subst hkn; exact .inr h2
            · exact .inl (.inr ⟨k, by omega, h1, h2⟩)
    · have hd : drawBit s g x0 y0 r e n = e := by rw [drawBit, if_neg hb]
      rw [hd]
      refine ⟨fun r' c' hc' => ?_, fun c hc hcn => ih2 c hc (by omega), ?_⟩
      · rw [ih1 r' c' hc']
        congr 1
        apply propext
        constructor
        · rintro ⟨a, b, c⟩; exact ⟨a, by omega, c⟩
        · rintro ⟨a, b, c⟩
          refine ⟨a, ?_, c⟩
          by_contra hne
          have hk : (cellCol s.mode c' + gridW s.mode - x0) % gridW s.mode = n := by omega
          rw [hk] at c; exact hb c
      · rw [ih3]
        constructor
        · rintro (h | ⟨k, hk, h⟩)
          · exact .inl h
          · exact .inr ⟨k, by omega, h⟩
        · rintro (h | ⟨k, hk, h1, h2⟩)
          · exact .inl h
          · by_cases hkn : k = n
            · subst hkn; exact absurd h1 hb
            · exact .inr ⟨k, by omega, h1, h2⟩

/-- Pixels in terms of cells, for a buffer whose cells are known. -/
theorem pix_of_physLit (m : Mode) (p : Phys) (c r : Nat) (hc : c < gridW m) (hr : r < gridH m) :
    ∃ r' c', r' < 64 ∧ c' < 128 ∧ cellRow m r' = r ∧ cellCol m c' = c ∧ pix m p c r = physLit p r' c' := by
  cases m with
  | standard =>
    have hc : c < 64 := hc
    have hr : r < 32 := hr
    exact ⟨2 * r, 2 * c, by omega, by omega, by simp only [cellRow]; omega, by simp only [cellCol]; omega, rfl⟩
  | extended => exact ⟨r, c, hr, hc, rfl, rfl, rfl⟩

/-- The whole sprite after its first `n` rows: the cells that are toggled, and whether a lit pixel was. -/
theorem drawRows_spec (s : State) (g : Geometry) {x0 y0 : Nat} (hx : x0 < gridW s.mode) (hg : g.width ≤ gridW s.mode) (n : Nat) :
    (∀ r' c', r' < 64 → c' < 128 →
      physLit ((List.range n).foldl (drawRow s g x0 y0) ⟨s.phys, false⟩).phys r' c' =
        if y0 ≤ cellRow s.mode r' ∧ cellRow s.mode r' - y0 < n ∧
            (cellCol s.mode c' + gridW s.mode - x0) % gridW s.mode < g.width ∧
            spriteBit s g (cellRow s.mode r' - y0) ((cellCol s.mode c' + gridW s.mode - x0) % gridW s.mode) = true
        then !pix s.mode s.phys (cellCol s.mode c') (cellRow s.mode r') else physLit s.phys r' c') ∧
    (((List.range n).foldl (drawRow s g x0 y0) ⟨s.phys, false⟩).hit = true ↔
      ∃ r k, r < n ∧ y0 + r < gridH s.mode ∧ k < g.width ∧ spriteBit s g r k = true ∧
        pix s.mode s.phys ((x0 + k) % gridW s.mode) (y0 + r) = true) := by
  induction n with
  | zero => simp
  | succ n ih =>
    obtain ⟨ih1, ih2⟩ := ih
    rw [List.range_succ, List.foldl_append, List.foldl_cons, List.foldl_nil]
    generalize (List.range n).foldl (drawRow s g x0 y0) ⟨s.phys, false⟩ = e at ih1 ih2
    by_cases hy : gridH s.mode ≤ y0 + n
    · rw [drawRow, if_pos hy]
      refine ⟨fun r' c' hr' hc' => ?_, ?_⟩
      · have hrl := cellRow_lt s.mode hr'
        rw [ih1 r' c' hr' hc']
        congr 1
        apply propext
        constructor
        · rintro ⟨a, b, c⟩; exact ⟨a, by omega, c⟩
        · rintro ⟨a, b, c⟩; exact ⟨a, by omega, c⟩
      · rw [ih2]
        constructor
        · rintro ⟨r, k, a, b⟩; exact ⟨r, k, by omega, b⟩
        · rintro ⟨r, k, a, b⟩; exact ⟨r, k, by omega, b⟩
    · rw [drawRow, if_neg hy]
      obtain ⟨h1, -, h3⟩ := drawBits_spec s g (x0 := x0) (y0 := y0) (r := n) hx (by omega) e g.width hg
      have hpix : ∀ c, c < gridW s.mode → pix s.mode e.phys c (y0 + n) = pix s.mode s.phys c (y0 + n) := by
        intro c hc
        obtain ⟨r', c', hr', hc', e1, e2, -⟩ := pix_of_physLit s.mode e.phys c (y0 + n) hc (by omega)
        cases hm : s.mode with
        | standard =>
          have he : ∀ p : Phys, pix .standard p c (y0 + n) = physLit p (2 * (y0 + n)) (2 * c) := fun _ => rfl
          rw [hm] at hc hy ih1
          have hc : c < 64 := hc
          have hy : ¬ 32 ≤ y0 + n := hy
          rw [he, he, ih1 _ _ (by omega) (by omega), if_neg]
          rintro ⟨-, b, -⟩
          simp only [cellRow] at b; omega
        | extended =>
          have he : ∀ p : Phys, pix .extended p c (y0 + n) = physLit p (y0 + n) c := fun _ => rfl
          rw [hm] at hc hy ih1
          have hc : c < 128 := hc
          have hy : ¬ 64 ≤ y0 + n := hy
          rw [he, he, ih1 _ _ (by omega) (by omega), if_neg]
          rintro ⟨-, b, -⟩
          simp only [cellRow] at b; omega
      refine ⟨fun r' c' hr' hc' => ?_, ?_⟩
      · have hcl := cellCol_lt s.mode hc'
        rw [h1 r' c' hc']
        by_cases hrow : cellRow s.mode r' = y0 + n
        · have hih := ih1 r' c' hr' hc'
          rw [if_neg (by omega)] at hih
          rw [hih]
          have hsub : cellRow s.mode r' - y0 = n := by omega
          rw [hsub, hrow, hpix _ hcl]
          congr 1
          apply propext
          constructor
          · rintro ⟨-, b⟩; exact ⟨by omega, by omega, b⟩
          · rintro ⟨-, -, b⟩; exact ⟨rfl, b⟩
        · rw [if_neg (fun h => hrow h.1), ih1 r' c' hr' hc']
          congr 1
          apply propext
          constructor
          · rintro ⟨a, b, c⟩; exact ⟨a, by omega, c⟩
          · rintro ⟨a, b, c⟩; exact ⟨a, by omega, c⟩
      · have hw : 0 < gridW s.mode := by omega
        rw [h3, ih2]
        constructor
        · rintro (⟨r, k, a, b⟩ | ⟨k, a, b, c⟩)
          · exact ⟨r, k, by omega, b⟩
          · exact ⟨n, k, by omega, by omega, a, b, by rwa [hpix _ (Nat.mod_lt _ hw)] at c⟩
        · rintro ⟨r, k, a, b, c, d, f⟩
          by_cases hrn : r = n
          · subst hrn; exact .inr ⟨k, c, d, by rwa [hpix _ (Nat.mod_lt _ hw)]⟩
          · exact .inl ⟨r, k, by omega, b, c, d, f⟩

theorem geometry_width_le (m : Mode) (n : Nibble) : (geometry m n).width ≤ gridW m := by
  cases m
  · show 8 ≤ 64; decide
  · show (if n = 0 then (⟨16, 16, 2⟩ : Geometry) else ⟨n.toNat, 8, 1⟩).width ≤ 128
    split <;> simp

theorem gridW_pos (m : Mode) : 0 < gridW m := by cases m <;> decide
theorem gridH_pos (m : Mode) : 0 < gridH m := by cases m <;> decide

/-- What `DRW` does to the cells: exactly the cells of the pixels it toggles change, each to the opposite of its pixel. -/
theorem physLit_drawSprite (s : State) (x y n : Nibble) (r c : Nat) (hr : r < 64) (hc : c < 128) :
    (Toggles s x y n (cellCol s.mode c) (cellRow s.mode r) →
      physLit (drawSprite s (geometry s.mode n) ((getV s x).toNat % gridW s.mode) ((getV s y).toNat % gridH s.mode)).phys r c =
        !pix s.mode s.phys (cellCol s.mode c) (cellRow s.mode r)) ∧
    (¬ Toggles s x y n (cellCol s.mode c) (cellRow s.mode r) →
      physLit (drawSprite s (geometry s.mode n) ((getV s x).toNat % gridW s.mode) ((getV s y).toNat % gridH s.mode)).phys r c =
        physLit s.phys r c) := by
  have h := (drawRows_spec s (geometry s.mode n) (x0 := (getV s x).toNat % gridW s.mode) (y0 := (getV s y).toNat % gridH s.mode)
    (Nat.mod_lt _ (gridW_pos _)) (geometry_width_le _ _) (geometry s.mode n).rows).1 r c hr hc
  constructor
  · intro ht; exact h.trans (if_pos ((toggles_iff ..).1 ht))
  · intro ht; exact h.trans (if_neg fun hn => ht ((toggles_iff ..).2 hn))

/-- What `DRW` reports: a hit exactly where it toggles a lit pixel. -/
theorem hit_drawSprite (s : State) (x y n : Nibble) :
    (drawSprite s (geometry s.mode n) ((getV s x).toNat % gridW s.mode) ((getV s y).toNat % gridH s.mode)).hit = true ↔
      Collides s x y n := by
  refine (drawRows_spec s (geometry s.mode n) (x0 := (getV s x).toNat % gridW s.mode) (y0 := (getV s y).toNat % gridH s.mode)
    (Nat.mod_lt _ (gridW_pos _)) (geometry_width_le _ _) (geometry s.mode n).rows).2.trans ?_
  simp only [collides_iff, toggles_iff]
  have hw := geometry_width_le s.mode n
  have hx : (getV s x).toNat % gridW s.mode < gridW s.mode := Nat.mod_lt _ (gridW_pos _)
  constructor
  · rintro ⟨r, k, a, b, c, d, e⟩
    have hpx : ((getV s x).toNat % gridW s.mode + k) % gridW s.mode < gridW s.mode := Nat.mod_lt _ (gridW_pos _)
    have hk : (((getV s x).toNat % gridW s.mode + k) % gridW s.mode + gridW s.mode - (getV s x).toNat % gridW s.mode) %
        gridW s.mode = k := (add_mod_eq_iff hx (by omega) hpx).1 rfl
    refine ⟨_, _, hpx, b, ⟨by omega, by omega, by omega, ?_⟩, e⟩
    rw [hk, Nat.add_sub_cancel_left]; exact d
  · rintro ⟨c, r, hc, hr, ⟨t1, t2, t3, t4⟩, hp⟩
    refine ⟨r - (getV s y).toNat % gridH s.mode, _, t2, by omega, t3, t4, ?_⟩
    have hk : ((getV s x).toNat % gridW s.mode +
        (c + gridW s.mode - (getV s x).toNat % gridW s.mode) % gridW s.mode) % gridW s.mode = c := (add_mod_eq_iff hx (Nat.mod_lt _ (gridW_pos _)) hc).2 rfl
    rw [hk, Nat.add_sub_cancel' t1]; exact hp

end Sys2Proof.Machine
end

