-- ==== Sys2Proof/Laws/Frame.lean ====
section
/-! SUPPORT. Laws/Frame.lean: what each shared operation leaves unchanged, said once, and how frames compose. -/

namespace Sys2Proof.Safety

open Sys2Proof.Machine

theorem Part.Same.refl (s : State) (p : Part) : Part.Same s s p := by
  cases p <;> simp [Part.Same]

theorem Part.Same.trans {s t u : State} {p : Part} (h : Part.Same s t p) (h' : Part.Same t u p) : Part.Same s u p := by
  cases p <;> simp_all [Part.Same]

theorem SameBut.refl (written : List Part) (s : State) : SameBut written s s := fun p _ => Part.Same.refl s p

theorem SameBut.trans {written : List Part} {s t u : State} (h : SameBut written s t) (h' : SameBut written t u) :
    SameBut written s u := fun p hp => (h p hp).trans (h' p hp)

theorem SameBut.mono {written more : List Part} {s t : State} (h : SameBut written s t) (hw : ∀ p ∈ written, p ∈ more) :
    SameBut more s t := fun p hp => h p fun hm => hp (hw p hm)

/-- A frame from the parts one by one, each named part being ruled out by evaluation. -/
theorem SameBut.of_parts {written : List Part} {s t : State} (h : ∀ p, decide (p ∈ written) = false → Part.Same s t p) :
    SameBut written s t := fun p hp => h p (decide_eq_false hp)

/-- The whole state is the same but for the parts the two states are compared on field by field. -/
theorem SameBut.of_fields {written : List Part} {s t : State}
    (hv : .v ∉ written → t.v = s.v) (hidx : .idx ∉ written → t.idx = s.idx) (hpc : .pc ∉ written → t.pc = s.pc)
    (hsp : .sp ∉ written → t.sp = s.sp) (hdt : .dt ∉ written → t.dt = s.dt) (hst : .st ∉ written → t.st = s.st)
    (hsound : .sound ∉ written → t.sound = s.sound) (hmode : .mode ∉ written → t.mode = s.mode)
    (hphys : .phys ∉ written → t.phys = s.phys) (hrpl : .rpl ∉ written → t.rpl = s.rpl)
    (hmem : .mem ∉ written → t.mem = s.mem) (hkeys : .keys ∉ written → t.keys = s.keys)
    (hprev : .prevKeys ∉ written → t.prevKeys = s.prevKeys)
    (hkjp : .kjp ∉ written → t.kjpValid = s.kjpValid ∧ t.kjpKey = s.kjpKey) (hrun : .run ∉ written → t.run = s.run)
    (herr : .err ∉ written → t.errReason = s.errReason ∧ t.errOpcode = s.errOpcode ∧ t.errPc = s.errPc)
    (hslice : .sliceLeft ∉ written → t.sliceLeft = s.sliceLeft) (hlat : .latches ∉ written → t.ia = s.ia ∧ t.ir = s.ir)
    (hcfg : t.cfg = s.cfg)
    (hphase : .phase ∉ written → t.phase = s.phase) (hloaded : .loaded ∉ written → t.loaded = s.loaded)
    (hreset : .wasReset ∉ written → t.wasReset = s.wasReset) (hmoves : .hostMoves ∉ written → t.hostMoves = s.hostMoves)
    (hhook : .hookKeys ∉ written → t.hookKeys = s.hookKeys)
    (hdraws : .draws ∉ written → t.draws = s.draws) (hevents : .events ∉ written → t.events = s.events) :
    SameBut written s t := by
  intro p hp
  cases p with
  | v => exact getV_congr (hv hp)
  | phys => intro r c; rw [hphys hp]
  | rpl => exact getRpl_congr (hrpl hp)
  | mem => intro a; simp [memRead, hcfg, hmem hp]
  | cfg => exact hcfg
  | _ => first | exact hidx hp | exact hpc hp | exact hsp hp | exact hdt hp | exact hst hp | exact hsound hp | exact hmode hp |
      exact hkeys hp | exact hprev hp | exact hkjp hp | exact hrun hp | exact herr hp | exact hslice hp | exact hlat hp |
      exact hphase hp | exact hloaded hp | exact hreset hp | exact hmoves hp | exact hhook hp | exact hdraws hp | exact hevents hp

/-! ### The shared operations -/

theorem sameBut_setV (s : State) (x : Nibble) (b : Byte) : SameBut [.v] s (setV s x b) := by
  apply SameBut.of_fields <;> simp

theorem sameBut_setVFlag (s : State) (x : Nibble) (r f : Byte) : SameBut [.v] s (setVFlag s x r f) := by
  apply SameBut.of_fields <;> simp

theorem sameBut_setPc (s : State) (t : Nat) : SameBut [.pc] s (setPc s t) := by
  apply SameBut.of_fields <;> simp

theorem sameBut_skipIf (b : Bool) (s : State) : SameBut [.pc] s (skipIf b s) := by
  cases b
  · exact SameBut.refl _ _
  · exact sameBut_setPc _ _

theorem sameBut_setRpl (s : State) (k : Nat) (b : Byte) : SameBut [.rpl] s (setRpl s k b) := by
  apply SameBut.of_fields <;> simp

theorem sameBut_memWrite (s : State) (a : Nat) (b : Byte) : SameBut [.mem] s (memWrite s a b) := by
  apply SameBut.of_fields <;> simp

theorem sameBut_memWriteBytes (s : State) (a : Nat) (bs : List Byte) : SameBut [.mem] s (memWriteBytes s a bs) := by
  apply SameBut.of_fields <;> simp

theorem sameBut_push (s : State) (w : Word) : SameBut [.mem, .sp] s (push s w) := by
  apply SameBut.of_fields <;> simp

theorem sameBut_emit (s : State) (e : Event) : SameBut [.events] s (emit s e) := by
  apply SameBut.of_fields <;> simp

theorem sameBut_soundOff (s : State) : SameBut [.sound, .events] s (soundOff s) := by
  apply SameBut.of_fields <;> simp

theorem sameBut_soundOn (s : State) : SameBut [.sound, .events] s (soundOn s) := by
  apply SameBut.of_fields <;> simp

theorem sameBut_raiseError (s : State) (r : Reason) : SameBut [.err, .events, .run] s (raiseError s r) := by
  apply SameBut.of_fields <;> simp

theorem sameBut_clearDisplay (s : State) : SameBut [.phys] s (clearDisplay s) := by
  apply SameBut.of_fields <;> simp

theorem sameBut_switchMode (s : State) (m : Mode) : SameBut [.phys, .mode] s (switchMode s m) := by
  apply SameBut.of_fields <;> simp

theorem sameBut_scroll (s : State) (new : (Nat → Nat → Bool) → Nat → Nat → Bool) : SameBut [.phys] s (scroll s new) := by
  apply SameBut.of_fields <;> simp [scroll]

theorem sameBut_doReset (s : State) :
    SameBut [.v, .idx, .pc, .sp, .dt, .st, .mode, .phys, .keys, .prevKeys, .kjp, .err, .sound, .run, .events,
      .wasReset] s (doReset s) := by
  apply SameBut.of_fields <;> simp

/-- A frame of a step of a fold over a list is a frame of the fold. -/
theorem SameBut.foldl {α : Type} {written : List Part} {f : State → α → State} (hf : ∀ s a, SameBut written s (f s a)) (l : List α)
    (s : State) : SameBut written s (l.foldl f s) := by
  induction l generalizing s with
  | nil => exact SameBut.refl _ _
  | cons a l ih => exact (hf s a).trans (ih _)

end Sys2Proof.Safety
end

