-- ==== Sys2Proof/Laws/Memory.lean ====
section
/-! SUPPORT. Laws/Memory.lean: the cells of memory: what a read gives after a write, and that every operation keeps the canonical form
(spec/20_memory.md R61, R62, R70). -/

namespace Sys2Proof.Machine

/-! ### The canonical form -/

theorem Memory.wfFrom_cons (c : Config) (lo a : Nat) (b : Byte) (rest : List Host.Cell) :
    Memory.wfFrom c lo ((a, b) :: rest) = true ↔
      lo ≤ a ∧ a < 4096 ∧ b ≠ unlisted c a ∧ Memory.wfFrom c (a + 1) rest = true := by
  simp only [Memory.wfFrom, Bool.and_eq_true, decide_eq_true_eq, and_assoc]
  rfl

theorem Memory.wfFrom_mono {c : Config} {lo lo' : Nat} {m : List Host.Cell} (h : lo' ≤ lo)
    (hm : Memory.wfFrom c lo m = true) : Memory.wfFrom c lo' m = true := by
  cases m with
  | nil => rfl
  | cons k rest =>
    obtain ⟨a, b⟩ := k
    rw [Memory.wfFrom_cons] at hm ⊢
    exact ⟨by omega, hm.2⟩

theorem wfFrom_consCell {c : Config} {lo a : Nat} {b : Byte} {rest : List Host.Cell} (h1 : lo ≤ a) (h2 : a < 4096)
    (h : Memory.wfFrom c (a + 1) rest = true) : Memory.wfFrom c lo (consCell c a b rest) = true := by
  unfold consCell
  split
  · exact Memory.wfFrom_mono (by omega) h
  · exact (Memory.wfFrom_cons ..).2 ⟨h1, h2, ‹_›, h⟩

/-- A write keeps the canonical form. -/
theorem wfFrom_cellsWrite {c : Config} {lo a : Nat} {m : List Host.Cell} (b : Byte) (h1 : lo ≤ a) (h2 : a < 4096)
    (hm : Memory.wfFrom c lo m = true) : Memory.wfFrom c lo (cellsWrite c m a b) = true := by
  induction m generalizing lo with
  | nil => exact wfFrom_consCell h1 h2 rfl
  | cons k rest ih =>
    obtain ⟨k, w⟩ := k
    rw [Memory.wfFrom_cons] at hm
    simp only [cellsWrite]
    split
    · exact wfFrom_consCell h1 h2 ((Memory.wfFrom_cons ..).2 ⟨by omega, hm.2⟩)
    · split
      · subst_vars; exact wfFrom_consCell h1 h2 hm.2.2.2
      · exact (Memory.wfFrom_cons ..).2 ⟨hm.1, hm.2.1, hm.2.2.1, ih (by omega) hm.2.2.2⟩

theorem memWrite_wf {s : State} (a : Nat) (b : Byte) (h : Memory.wf s.cfg s.mem = true) :
    Memory.wf (memWrite s a b).cfg (memWrite s a b).mem = true :=
  wfFrom_cellsWrite b (Nat.zero_le _) (Nat.mod_lt _ (by decide)) h

theorem memWriteBytes_wf {s : State} (a : Nat) (bs : List Byte) (h : Memory.wf s.cfg s.mem = true) :
    Memory.wf (memWriteBytes s a bs).cfg (memWriteBytes s a bs).mem = true := by
  induction bs generalizing s a with
  | nil => exact h
  | cons b bs ih => exact ih _ (memWrite_wf _ _ h)

theorem push_wf {s : State} (w : Word) (h : Memory.wf s.cfg s.mem = true) :
    Memory.wf (push s w).cfg (push s w).mem = true :=
  memWrite_wf (s := memWrite s s.sp.toNat (w.extractLsb' 8 8)) _ _ (memWrite_wf _ _ h)

/-! ### Reading -/

theorem cellsRead_of_lt {c : Config} {lo a : Nat} {m : List Host.Cell} (h : a < lo) (hm : Memory.wfFrom c lo m = true) :
    cellsRead c m a = unlisted c a := by
  induction m generalizing lo with
  | nil => rfl
  | cons k rest ih =>
    obtain ⟨k, w⟩ := k
    rw [Memory.wfFrom_cons] at hm
    rw [cellsRead, if_neg (by omega), ih (lo := k + 1) (by omega) hm.2.2.2]

theorem cellsRead_consCell {c : Config} {a a' : Nat} {b : Byte} {rest : List Host.Cell}
    (h : Memory.wfFrom c (a + 1) rest = true) :
    cellsRead c (consCell c a b rest) a' = if a = a' then b else cellsRead c rest a' := by
  unfold consCell
  split
  · split
    · subst_vars; exact cellsRead_of_lt (Nat.lt_succ_self _) h
    · rfl
  · rfl

/-- A read after a write in the canonical form. -/
theorem cellsRead_cellsWrite {c : Config} {lo a a' : Nat} {m : List Host.Cell} (b : Byte)
    (hm : Memory.wfFrom c lo m = true) :
    cellsRead c (cellsWrite c m a b) a' = if a = a' then b else cellsRead c m a' := by
  induction m generalizing lo with
  | nil => exact cellsRead_consCell rfl
  | cons k rest ih =>
    obtain ⟨k, w⟩ := k
    rw [Memory.wfFrom_cons] at hm
    simp only [cellsWrite]
    split
    · exact cellsRead_consCell ((Memory.wfFrom_cons ..).2 ⟨by omega, hm.2⟩)
    · split
      · subst_vars
        rw [cellsRead_consCell hm.2.2.2]
        simp only [cellsRead]
        split <;> simp_all
      · simp only [cellsRead, ih hm.2.2.2]
        split
        · split
          · omega
          · rfl
        · rfl

/-- Memory is read from the fields `cfg` and `mem` alone. -/
theorem memRead_congr {s t : State} (hc : t.cfg = s.cfg) (hm : t.mem = s.mem) (a : Nat) : memRead t a = memRead s a := by
  simp [memRead, hc, hm]

theorem memRead_mod (s : State) (a : Nat) : memRead s (a % 4096) = memRead s a := by
  simp [memRead, memSize]

/-- A store of consecutive bytes: an address it reaches reads the byte put there, every other one as before. No address is reached twice
where at most 4096 bytes are stored. -/
theorem memRead_memWriteBytes {s : State} (a a' : Nat) (bs : List Byte) (hl : bs.length ≤ 4096)
    (h : Memory.wf s.cfg s.mem = true) :
    memRead (memWriteBytes s a bs) a' =
      match bs[(a' % 4096 + 4096 - a % 4096) % 4096]? with
      | some b => b
      | none => memRead s a' := by
  induction bs generalizing s a with
  | nil => simp [memWriteBytes]
  | cons b bs ih =>
    rw [List.length_cons] at hl
    rw [memWriteBytes, ih (s := memWrite s a b) (a := a + 1) (by omega) (memWrite_wf a b h)]
    have hrw : memRead (memWrite s a b) a' = if a % 4096 = a' % 4096 then b else memRead s a' :=
      cellsRead_cellsWrite b h
    by_cases he : a % 4096 = a' % 4096
    · have h0 : (a' % 4096 + 4096 - a % 4096) % 4096 = 0 := by omega
      have h1 : (a' % 4096 + 4096 - (a + 1) % 4096) % 4096 = 4095 := by omega
      rw [h0, h1, List.getElem?_eq_none (by omega)]
      simp [hrw, he]
    · have h1 : (a' % 4096 + 4096 - a % 4096) % 4096 = (a' % 4096 + 4096 - (a + 1) % 4096) % 4096 + 1 := by omega
      rw [h1, List.getElem?_cons_succ]
      simp [hrw, he]

end Sys2Proof.Machine
end

