-- ==== Sys2Proof/Laws/Ops.lean ====
section
/-! SUPPORT. Laws/Ops.lean: one lemma for each shared operation of Machine/Ops.lean and Machine/Operands.lean that says what it does; a proof cites
it instead of unfolding the operation. -/

namespace Sys2Proof.Machine

open Sys2Proof.Safety

/-! ### The program counter and the skip -/

@[simp] theorem toNat_setPc (s : State) (t : Nat) : (setPc s t).pc.toNat = t % 4096 := by
  simp only [setPc, memSize, BitVec.toNat_ofNat]; omega

/-- `PC` is below 4096 after every write of it (R23). -/
theorem pcInMemory_setPc (s : State) (t : Nat) : PcInMemory (setPc s t) := by
  rw [PcInMemory, toNat_setPc]; exact Nat.mod_lt _ (by decide)

theorem skips_skipIf (b : Bool) (s : State) : Skips (b = true) s (skipIf b s) := by
  refine ⟨fun h => ?_, fun h => ?_, sameBut_skipIf b s⟩
  · subst h; exact toNat_setPc _ _
  · cases b
    · rfl
    · exact absurd rfl h

/-! ### General registers -/

theorem setsReg_setV (s : State) (x : Nibble) (b : Byte) : SetsReg x b.toNat s (setV s x b) := by
  refine ⟨by simp, fun j hj => ?_, sameBut_setV s x b⟩
  rw [getV_setV, if_neg hj]

theorem setsRegAndFlag_setVFlag (s : State) (x : Nibble) (r f : Byte) :
    SetsRegAndFlag x r.toNat f.toNat s (setVFlag s x r f) := by
  refine ⟨fun hx => ?_, by simp, fun j hj => ?_, sameBut_setVFlag s x r f⟩
  · rw [getV_setVFlag, if_neg hx, if_pos rfl]
  · rw [getV_setVFlag, if_neg (fun e => hj (.inr e)), if_neg (fun e => hj (.inl e))]

theorem toNat_flagByte (b : Bool) : (flagByte b).toNat = if b = true then 1 else 0 := by cases b <;> rfl

/-! ### Memory -/

/-- One byte stored (R62). -/
theorem memRead_memWrite {s : State} (a a' : Nat) (b : Byte) (h : MemCanonical s) :
    memRead (memWrite s a b) a' = if a' % 4096 = a % 4096 then b else memRead s a' := by
  have hw : memRead (memWrite s a b) a' = if a % 4096 = a' % 4096 then b else memRead s a' := cellsRead_cellsWrite b h
  rw [hw]; simp only [eq_comm]

/-- A run of bytes stored, at most one turn of memory (R63, R64). -/
theorem stores_memWriteBytes {s : State} (a : Nat) (bs : List Byte) (hl : bs.length ≤ 4096) (h : MemCanonical s) :
    Stores a bs.length (fun k => (bs.getD k 0).toNat) s (memWriteBytes s a bs) := by
  refine ⟨fun k hk => ?_, fun b hb => ?_⟩
  · rw [memRead_memWriteBytes a (a + k) bs hl h]
    have hi : ((a + k) % 4096 + 4096 - a % 4096) % 4096 = k := by omega
    rw [hi, List.getElem?_eq_getElem hk]
    simp [hk]
  · rw [memRead_memWriteBytes a b bs hl h]
    cases hg : bs[(b % 4096 + 4096 - a % 4096) % 4096]? with
    | none => rfl
    | some v =>
      obtain ⟨hk, -⟩ := List.getElem?_eq_some_iff.1 hg
      exact absurd (by omega) (hb _ hk)

/-! ### The stack -/

/-- A push (R27, R102): the low byte lies at the lower address. -/
theorem memRead_push {s : State} (w : Word) (a : Nat) (h : MemCanonical s) :
    memRead (push s w) a =
      if a % 4096 = (s.sp - 1).toNat % 4096 then w.extractLsb' 0 8
      else if a % 4096 = s.sp.toNat % 4096 then w.extractLsb' 8 8 else memRead s a := by
  have hp : memRead (push s w) a =
      memRead (memWrite (memWrite s s.sp.toNat (w.extractLsb' 8 8)) (s.sp - 1).toNat (w.extractLsb' 0 8)) a := rfl
  rw [hp, memRead_memWrite _ _ _ (memWrite_wf _ _ h), memRead_memWrite _ _ _ h]

theorem toNat_popped (s : State) :
    (popped s).toNat = (memRead s (s.sp.toNat + 2)).toNat * 256 + (memRead s (s.sp.toNat + 1)).toNat :=
  toNat_wordOfBytes _ _

/-- The full stack, as numbers (R28). -/
theorem sp_eq_stackFull {s : State} (hl : s.cfg.Legal) :
    s.sp = stackFull s.cfg ↔ s.sp.toNat + 2 * s.cfg.stackDepth = s.cfg.stackTop.toNat := by
  obtain ⟨h1, h2, h3⟩ := hl
  rw [stackFull, ← BitVec.toNat_inj, BitVec.toNat_sub, BitVec.toNat_ofNat]
  omega

/-! ### The error channel -/

/-- What raising an error does, whole (R232). -/
theorem raised_raiseError (r : Reason) (s : State) : Raised r s (raiseError s r) := by
  refine ⟨rfl, rfl, rfl, rfl, fun h => ?_, fun h => ?_, sameBut_raiseError s r⟩ <;> simp [raiseError, runAfterError, h]

/-! ### Register blocks (R157-R160) -/

theorem toNat_regOf {i : Nat} (h : i < 16) : (regOf i).toNat = i := by
  simp only [regOf, BitVec.toNat_ofNat]; omega

theorem regOf_toNat (j : Nibble) : regOf j.toNat = j := by simp [regOf]

/-- A block load into `V0`, ..., `V(n-1)`, from a source that the load does not write. -/
theorem getV_blockLoad (f : Nat → Byte) (n : Nat) (hn : n ≤ 16) (s : State) (j : Nibble) :
    getV ((List.range n).foldl (fun t i => setV t (regOf i) (f i)) s) j = if j.toNat < n then f j.toNat else getV s j := by
  induction n with
  | zero => simp
  | succ n ih =>
    rw [List.range_succ, List.foldl_append, List.foldl_cons, List.foldl_nil, getV_setV, ih (by omega)]
    by_cases h : j = regOf n
    · subst h; rw [if_pos rfl, toNat_regOf (by omega), if_pos (by omega)]
    · have hne : j.toNat ≠ n := fun e => h (by rw [← e, regOf_toNat])
      rw [if_neg h]
      by_cases hlt : j.toNat < n
      · rw [if_pos hlt, if_pos (by omega)]
      · rw [if_neg hlt, if_neg (by omega)]

/-- A block save into `RPL[0]`, ..., `RPL[n-1]`. -/
theorem getRpl_blockSave (f : Nat → Byte) (n : Nat) (hn : n ≤ 8) (s : State) (k : Nat) :
    getRpl ((List.range n).foldl (fun t i => setRpl t i (f i)) s) k = if k < n then f k else getRpl s k := by
  induction n with
  | zero => simp
  | succ n ih =>
    rw [List.range_succ, List.foldl_append, List.foldl_cons, List.foldl_nil, getRpl_setRpl, ih (by omega)]
    by_cases h : k = n
    · subst h; rw [if_pos ⟨rfl, by omega⟩, if_pos (by omega)]
    · rw [if_neg (fun e => h e.1)]
      by_cases hlt : k < n
      · rw [if_pos hlt, if_pos (by omega)]
      · rw [if_neg hlt, if_neg (by omega)]

end Sys2Proof.Machine
end

