-- ==== Sys2Proof/Laws/PerInstr.lean ====
section
/-! SUPPORT. Laws/PerInstr.lean: the family Table: the word of every well-formed instruction carries the fixed bits of its row of
spec/opcode_table.json, and is no other row's. -/

namespace Sys2Proof.Laws.Table

/-- The mask and the match of an instruction's row of spec/opcode_table.json. -/
def row : Instr → Word × Word
  | .cls _ => (0xF0FF, 0x00E0)
  | .ret _ => (0xF0FF, 0x00EE)
  | .scd _ _ => (0xF0F0, 0x00C0)
  | .scr _ => (0xF0FF, 0x00FB)
  | .scl _ => (0xF0FF, 0x00FC)
  | .exit _ => (0xF0FF, 0x00FD)
  | .low _ => (0xF0FF, 0x00FE)
  | .high _ => (0xF0FF, 0x00FF)
  | .jp _ => (0xF000, 0x1000)
  | .call _ => (0xF000, 0x2000)
  | .seVxKk _ _ => (0xF000, 0x3000)
  | .sneVxKk _ _ => (0xF000, 0x4000)
  | .seVxVy _ _ _ => (0xF000, 0x5000)
  | .ldVxKk _ _ => (0xF000, 0x6000)
  | .addVxKk _ _ => (0xF000, 0x7000)
  | .ldVxVy _ _ => (0xF00F, 0x8000)
  | .orVxVy _ _ => (0xF00F, 0x8001)
  | .andVxVy _ _ => (0xF00F, 0x8002)
  | .xorVxVy _ _ => (0xF00F, 0x8003)
  | .addVxVy _ _ => (0xF00F, 0x8004)
  | .sub _ _ => (0xF00F, 0x8005)
  | .shr _ _ => (0xF00F, 0x8006)
  | .subn _ _ => (0xF00F, 0x8007)
  | .shl _ _ => (0xF00F, 0x800E)
  | .nop8x8 _ => (0xF00F, 0x8008)
  | .nop8x9 _ => (0xF00F, 0x8009)
  | .nop8xA _ => (0xF00F, 0x800A)
  | .nop8xB _ => (0xF00F, 0x800B)
  | .nop8xC _ => (0xF00F, 0x800C)
  | .nop8xD _ => (0xF00F, 0x800D)
  | .nop8xF _ => (0xF00F, 0x800F)
  | .sneVxVy _ _ _ => (0xF000, 0x9000)
  | .ldINnn _ => (0xF000, 0xA000)
  | .jpV0 _ => (0xF000, 0xB000)
  | .rnd _ _ => (0xF000, 0xC000)
  | .drw _ _ _ => (0xF000, 0xD000)
  | .skp _ => (0xF0FF, 0xE09E)
  | .sknp _ => (0xF0FF, 0xE0A1)
  | .ldVxDt _ => (0xF0FF, 0xF007)
  | .ldVxK _ => (0xF0FF, 0xF00A)
  | .ldDtVx _ => (0xF0FF, 0xF015)
  | .ldStVx _ => (0xF0FF, 0xF018)
  | .addIVx _ => (0xF0FF, 0xF01E)
  | .ldFVx _ => (0xF0FF, 0xF029)
  | .ldBVx _ => (0xF0FF, 0xF033)
  | .ldMiVx _ => (0xF0FF, 0xF055)
  | .ldVxMi _ => (0xF0FF, 0xF065)
  | .ldRVx _ => (0xF8FF, 0xF075)
  | .ldVxR _ => (0xF8FF, 0xF085)

/-- The word has the row's fixed bits. -/
def Statement (i : Instr) : Prop := i.wellFormed = true → encode i &&& (row i).1 = (row i).2

theorem wordXkk_mask (op x : Nibble) (kk : Byte) : wordXkk op x kk &&& 0xF0FF = wordXkk op 0 kk := by
  apply BitVec.eq_of_getLsbD_eq
  intro k hk
  simp only [wordXkk, BitVec.getLsbD_and, BitVec.getLsbD_append]
  interval_cases k <;> simp

theorem wordXkk_mask_low (op x : Nibble) (kk : Byte) (hx : x.toNat ≤ 7) : wordXkk op x kk &&& 0xF8FF = wordXkk op 0 kk := by
  have h3 : x.getLsbD 3 = false := Nat.testBit_lt_two_pow (by omega)
  apply BitVec.eq_of_getLsbD_eq
  intro k hk
  simp only [wordXkk, BitVec.getLsbD_and, BitVec.getLsbD_append]
  interval_cases k <;> simp
  exact h3

theorem wordXkk_mask_op (op x : Nibble) (kk : Byte) : wordXkk op x kk &&& 0xF000 = wordXkk op 0 0 := by
  apply BitVec.eq_of_getLsbD_eq
  intro k hk
  simp only [wordXkk, BitVec.getLsbD_and, BitVec.getLsbD_append]
  interval_cases k <;> simp

theorem wordNnn_mask (op : Nibble) (nnn : Addr) : wordNnn op nnn &&& 0xF000 = wordNnn op 0 := by
  apply BitVec.eq_of_getLsbD_eq
  intro k hk
  simp only [wordNnn, BitVec.getLsbD_and, BitVec.getLsbD_append]
  interval_cases k <;> simp

theorem wordXyn_mask (op x y n : Nibble) : wordXyn op x y n &&& 0xF00F = wordXyn op 0 0 n := by
  apply BitVec.eq_of_getLsbD_eq
  intro k hk
  simp only [wordXyn, BitVec.getLsbD_and, BitVec.getLsbD_append]
  interval_cases k <;> simp

theorem wordXyn_mask_op (op x y n : Nibble) : wordXyn op x y n &&& 0xF000 = wordXyn op 0 0 0 := by
  apply BitVec.eq_of_getLsbD_eq
  intro k hk
  simp only [wordXyn, BitVec.getLsbD_and, BitVec.getLsbD_append]
  interval_cases k <;> simp

theorem wordXyn_mask_scd (op x y n : Nibble) : wordXyn op x y n &&& 0xF0F0 = wordXyn op 0 y 0 := by
  apply BitVec.eq_of_getLsbD_eq
  intro k hk
  simp only [wordXyn, BitVec.getLsbD_and, BitVec.getLsbD_append]
  interval_cases k <;> simp

theorem wordXyTogether_mask (op : Nibble) (xy : Byte) (n : Nibble) :
    wordXyTogether op xy n &&& 0xF00F = wordXyTogether op 0 n := by
  apply BitVec.eq_of_getLsbD_eq
  intro k hk
  simp only [wordXyTogether, BitVec.getLsbD_and, BitVec.getLsbD_append]
  interval_cases k <;> simp

theorem cls (ign : Nibble) : Statement (.cls ign) := fun _ => (wordXkk_mask _ _ _).trans rfl
theorem ret (ign : Nibble) : Statement (.ret ign) := fun _ => (wordXkk_mask _ _ _).trans rfl
theorem scd (ign n : Nibble) : Statement (.scd ign n) := fun _ => (wordXyn_mask_scd _ _ _ _).trans rfl
theorem scr (ign : Nibble) : Statement (.scr ign) := fun _ => (wordXkk_mask _ _ _).trans rfl
theorem scl (ign : Nibble) : Statement (.scl ign) := fun _ => (wordXkk_mask _ _ _).trans rfl
theorem exit (ign : Nibble) : Statement (.exit ign) := fun _ => (wordXkk_mask _ _ _).trans rfl
theorem low (ign : Nibble) : Statement (.low ign) := fun _ => (wordXkk_mask _ _ _).trans rfl
theorem high (ign : Nibble) : Statement (.high ign) := fun _ => (wordXkk_mask _ _ _).trans rfl
theorem jp (nnn : Addr) : Statement (.jp nnn) := fun _ => (wordNnn_mask _ _).trans rfl
theorem call (nnn : Addr) : Statement (.call nnn) := fun _ => (wordNnn_mask _ _).trans rfl
theorem seVxKk (x : Nibble) (kk : Byte) : Statement (.seVxKk x kk) := fun _ => (wordXkk_mask_op _ _ _).trans rfl
theorem sneVxKk (x : Nibble) (kk : Byte) : Statement (.sneVxKk x kk) := fun _ => (wordXkk_mask_op _ _ _).trans rfl
theorem seVxVy (x y ign : Nibble) : Statement (.seVxVy x y ign) := fun _ => (wordXyn_mask_op _ _ _ _).trans rfl
theorem ldVxKk (x : Nibble) (kk : Byte) : Statement (.ldVxKk x kk) := fun _ => (wordXkk_mask_op _ _ _).trans rfl
theorem addVxKk (x : Nibble) (kk : Byte) : Statement (.addVxKk x kk) := fun _ => (wordXkk_mask_op _ _ _).trans rfl
theorem ldVxVy (x y : Nibble) : Statement (.ldVxVy x y) := fun _ => (wordXyn_mask _ _ _ _).trans rfl
theorem orVxVy (x y : Nibble) : Statement (.orVxVy x y) := fun _ => (wordXyn_mask _ _ _ _).trans rfl
theorem andVxVy (x y : Nibble) : Statement (.andVxVy x y) := fun _ => (wordXyn_mask _ _ _ _).trans rfl
theorem xorVxVy (x y : Nibble) : Statement (.xorVxVy x y) := fun _ => (wordXyn_mask _ _ _ _).trans rfl
theorem addVxVy (x y : Nibble) : Statement (.addVxVy x y) := fun _ => (wordXyn_mask _ _ _ _).trans rfl
theorem sub (x y : Nibble) : Statement (.sub x y) := fun _ => (wordXyn_mask _ _ _ _).trans rfl
theorem shr (x y : Nibble) : Statement (.shr x y) := fun _ => (wordXyn_mask _ _ _ _).trans rfl
theorem subn (x y : Nibble) : Statement (.subn x y) := fun _ => (wordXyn_mask _ _ _ _).trans rfl
theorem shl (x y : Nibble) : Statement (.shl x y) := fun _ => (wordXyn_mask _ _ _ _).trans rfl
theorem nop8x8 (ign : Byte) : Statement (.nop8x8 ign) := fun _ => (wordXyTogether_mask _ _ _).trans rfl
theorem nop8x9 (ign : Byte) : Statement (.nop8x9 ign) := fun _ => (wordXyTogether_mask _ _ _).trans rfl
theorem nop8xA (ign : Byte) : Statement (.nop8xA ign) := fun _ => (wordXyTogether_mask _ _ _).trans rfl
theorem nop8xB (ign : Byte) : Statement (.nop8xB ign) := fun _ => (wordXyTogether_mask _ _ _).trans rfl
theorem nop8xC (ign : Byte) : Statement (.nop8xC ign) := fun _ => (wordXyTogether_mask _ _ _).trans rfl
theorem nop8xD (ign : Byte) : Statement (.nop8xD ign) := fun _ => (wordXyTogether_mask _ _ _).trans rfl
theorem nop8xF (ign : Byte) : Statement (.nop8xF ign) := fun _ => (wordXyTogether_mask _ _ _).trans rfl
theorem sneVxVy (x y ign : Nibble) : Statement (.sneVxVy x y ign) := fun _ => (wordXyn_mask_op _ _ _ _).trans rfl
theorem ldINnn (nnn : Addr) : Statement (.ldINnn nnn) := fun _ => (wordNnn_mask _ _).trans rfl
theorem jpV0 (nnn : Addr) : Statement (.jpV0 nnn) := fun _ => (wordNnn_mask _ _).trans rfl
theorem rnd (x : Nibble) (kk : Byte) : Statement (.rnd x kk) := fun _ => (wordXkk_mask_op _ _ _).trans rfl
theorem drw (x y n : Nibble) : Statement (.drw x y n) := fun _ => (wordXyn_mask_op _ _ _ _).trans rfl
theorem skp (x : Nibble) : Statement (.skp x) := fun _ => (wordXkk_mask _ _ _).trans rfl
theorem sknp (x : Nibble) : Statement (.sknp x) := fun _ => (wordXkk_mask _ _ _).trans rfl
theorem ldVxDt (x : Nibble) : Statement (.ldVxDt x) := fun _ => (wordXkk_mask _ _ _).trans rfl
theorem ldVxK (x : Nibble) : Statement (.ldVxK x) := fun _ => (wordXkk_mask _ _ _).trans rfl
theorem ldDtVx (x : Nibble) : Statement (.ldDtVx x) := fun _ => (wordXkk_mask _ _ _).trans rfl
theorem ldStVx (x : Nibble) : Statement (.ldStVx x) := fun _ => (wordXkk_mask _ _ _).trans rfl
theorem addIVx (x : Nibble) : Statement (.addIVx x) := fun _ => (wordXkk_mask _ _ _).trans rfl
theorem ldFVx (x : Nibble) : Statement (.ldFVx x) := fun _ => (wordXkk_mask _ _ _).trans rfl
theorem ldBVx (x : Nibble) : Statement (.ldBVx x) := fun _ => (wordXkk_mask _ _ _).trans rfl
theorem ldMiVx (x : Nibble) : Statement (.ldMiVx x) := fun _ => (wordXkk_mask _ _ _).trans rfl
theorem ldVxMi (x : Nibble) : Statement (.ldVxMi x) := fun _ => (wordXkk_mask _ _ _).trans rfl
theorem ldRVx (x : Nibble) : Statement (.ldRVx x) := fun h => (wordXkk_mask_low _ _ _ (of_decide_eq_true h)).trans rfl
theorem ldVxR (x : Nibble) : Statement (.ldVxR x) := fun h => (wordXkk_mask_low _ _ _ (of_decide_eq_true h)).trans rfl

end Sys2Proof.Laws.Table
end

