-- ==== Sys2Proof/Laws/Slice.lean ====
section
/-! SUPPORT. Laws/Slice.lean: the end of a slice, action by action: the fields each leaves alone and the values it writes
(spec/60_exceptions.md R245-R248). -/

namespace Sys2Proof.Machine

open Sys2Proof.Safety

/-! ### `tickDelay` -/

@[simp] theorem tickDelay_v (s : State) : (tickDelay s).v = s.v := by unfold tickDelay; split <;> rfl
@[simp] theorem tickDelay_idx (s : State) : (tickDelay s).idx = s.idx := by unfold tickDelay; split <;> rfl
@[simp] theorem tickDelay_pc (s : State) : (tickDelay s).pc = s.pc := by unfold tickDelay; split <;> rfl
@[simp] theorem tickDelay_sp (s : State) : (tickDelay s).sp = s.sp := by unfold tickDelay; split <;> rfl
@[simp] theorem tickDelay_st (s : State) : (tickDelay s).st = s.st := by unfold tickDelay; split <;> rfl
@[simp] theorem tickDelay_sound (s : State) : (tickDelay s).sound = s.sound := by unfold tickDelay; split <;> rfl
@[simp] theorem tickDelay_mode (s : State) : (tickDelay s).mode = s.mode := by unfold tickDelay; split <;> rfl
@[simp] theorem tickDelay_phys (s : State) : (tickDelay s).phys = s.phys := by unfold tickDelay; split <;> rfl
@[simp] theorem tickDelay_rpl (s : State) : (tickDelay s).rpl = s.rpl := by unfold tickDelay; split <;> rfl
@[simp] theorem tickDelay_mem (s : State) : (tickDelay s).mem = s.mem := by unfold tickDelay; split <;> rfl
@[simp] theorem tickDelay_keys (s : State) : (tickDelay s).keys = s.keys := by unfold tickDelay; split <;> rfl
@[simp] theorem tickDelay_prevKeys (s : State) : (tickDelay s).prevKeys = s.prevKeys := by unfold tickDelay; split <;> rfl
@[simp] theorem tickDelay_kjpValid (s : State) : (tickDelay s).kjpValid = s.kjpValid := by unfold tickDelay; split <;> rfl
@[simp] theorem tickDelay_kjpKey (s : State) : (tickDelay s).kjpKey = s.kjpKey := by unfold tickDelay; split <;> rfl
@[simp] theorem tickDelay_run (s : State) : (tickDelay s).run = s.run := by unfold tickDelay; split <;> rfl
@[simp] theorem tickDelay_errReason (s : State) : (tickDelay s).errReason = s.errReason := by unfold tickDelay; split <;> rfl
@[simp] theorem tickDelay_errOpcode (s : State) : (tickDelay s).errOpcode = s.errOpcode := by unfold tickDelay; split <;> rfl
@[simp] theorem tickDelay_errPc (s : State) : (tickDelay s).errPc = s.errPc := by unfold tickDelay; split <;> rfl
@[simp] theorem tickDelay_sliceLeft (s : State) : (tickDelay s).sliceLeft = s.sliceLeft := by unfold tickDelay; split <;> rfl
@[simp] theorem tickDelay_ia (s : State) : (tickDelay s).ia = s.ia := by unfold tickDelay; split <;> rfl
@[simp] theorem tickDelay_ir (s : State) : (tickDelay s).ir = s.ir := by unfold tickDelay; split <;> rfl
@[simp] theorem tickDelay_cfg (s : State) : (tickDelay s).cfg = s.cfg := by unfold tickDelay; split <;> rfl
@[simp] theorem tickDelay_phase (s : State) : (tickDelay s).phase = s.phase := by unfold tickDelay; split <;> rfl
@[simp] theorem tickDelay_loaded (s : State) : (tickDelay s).loaded = s.loaded := by unfold tickDelay; split <;> rfl
@[simp] theorem tickDelay_wasReset (s : State) : (tickDelay s).wasReset = s.wasReset := by unfold tickDelay; split <;> rfl
@[simp] theorem tickDelay_draws (s : State) : (tickDelay s).draws = s.draws := by unfold tickDelay; split <;> rfl
@[simp] theorem tickDelay_events (s : State) : (tickDelay s).events = s.events := by unfold tickDelay; split <;> rfl
@[simp] theorem tickDelay_hostMoves (s : State) : (tickDelay s).hostMoves = s.hostMoves := by unfold tickDelay; split <;> rfl
@[simp] theorem tickDelay_hookKeys (s : State) : (tickDelay s).hookKeys = s.hookKeys := by unfold tickDelay; split <;> rfl

/-! ### `tickSound` -/

@[simp] theorem tickSound_v (s : State) : (tickSound s).v = s.v := by unfold tickSound; (repeat' split) <;> rfl
@[simp] theorem tickSound_idx (s : State) : (tickSound s).idx = s.idx := by unfold tickSound; (repeat' split) <;> rfl
@[simp] theorem tickSound_pc (s : State) : (tickSound s).pc = s.pc := by unfold tickSound; (repeat' split) <;> rfl
@[simp] theorem tickSound_sp (s : State) : (tickSound s).sp = s.sp := by unfold tickSound; (repeat' split) <;> rfl
@[simp] theorem tickSound_dt (s : State) : (tickSound s).dt = s.dt := by unfold tickSound; (repeat' split) <;> rfl
@[simp] theorem tickSound_mode (s : State) : (tickSound s).mode = s.mode := by unfold tickSound; (repeat' split) <;> rfl
@[simp] theorem tickSound_phys (s : State) : (tickSound s).phys = s.phys := by unfold tickSound; (repeat' split) <;> rfl
@[simp] theorem tickSound_rpl (s : State) : (tickSound s).rpl = s.rpl := by unfold tickSound; (repeat' split) <;> rfl
@[simp] theorem tickSound_mem (s : State) : (tickSound s).mem = s.mem := by unfold tickSound; (repeat' split) <;> rfl
@[simp] theorem tickSound_keys (s : State) : (tickSound s).keys = s.keys := by unfold tickSound; (repeat' split) <;> rfl
@[simp] theorem tickSound_prevKeys (s : State) : (tickSound s).prevKeys = s.prevKeys := by unfold tickSound; (repeat' split) <;> rfl
@[simp] theorem tickSound_kjpValid (s : State) : (tickSound s).kjpValid = s.kjpValid := by unfold tickSound; (repeat' split) <;> rfl
@[simp] theorem tickSound_kjpKey (s : State) : (tickSound s).kjpKey = s.kjpKey := by unfold tickSound; (repeat' split) <;> rfl
@[simp] theorem tickSound_run (s : State) : (tickSound s).run = s.run := by unfold tickSound; (repeat' split) <;> rfl
@[simp] theorem tickSound_errReason (s : State) : (tickSound s).errReason = s.errReason := by unfold tickSound; (repeat' split) <;> rfl
@[simp] theorem tickSound_errOpcode (s : State) : (tickSound s).errOpcode = s.errOpcode := by unfold tickSound; (repeat' split) <;> rfl
@[simp] theorem tickSound_errPc (s : State) : (tickSound s).errPc = s.errPc := by unfold tickSound; (repeat' split) <;> rfl
@[simp] theorem tickSound_sliceLeft (s : State) : (tickSound s).sliceLeft = s.sliceLeft := by unfold tickSound; (repeat' split) <;> rfl
@[simp] theorem tickSound_ia (s : State) : (tickSound s).ia = s.ia := by unfold tickSound; (repeat' split) <;> rfl
@[simp] theorem tickSound_ir (s : State) : (tickSound s).ir = s.ir := by unfold tickSound; (repeat' split) <;> rfl
@[simp] theorem tickSound_cfg (s : State) : (tickSound s).cfg = s.cfg := by unfold tickSound; (repeat' split) <;> rfl
@[simp] theorem tickSound_phase (s : State) : (tickSound s).phase = s.phase := by unfold tickSound; (repeat' split) <;> rfl
@[simp] theorem tickSound_loaded (s : State) : (tickSound s).loaded = s.loaded := by unfold tickSound; (repeat' split) <;> rfl
@[simp] theorem tickSound_wasReset (s : State) : (tickSound s).wasReset = s.wasReset := by unfold tickSound; (repeat' split) <;> rfl
@[simp] theorem tickSound_draws (s : State) : (tickSound s).draws = s.draws := by unfold tickSound; (repeat' split) <;> rfl
@[simp] theorem tickSound_hostMoves (s : State) : (tickSound s).hostMoves = s.hostMoves := by unfold tickSound; (repeat' split) <;> rfl
@[simp] theorem tickSound_hookKeys (s : State) : (tickSound s).hookKeys = s.hookKeys := by unfold tickSound; (repeat' split) <;> rfl

/-! ### `interruptTick` -/

@[simp] theorem interruptTick_v (s : State) : (interruptTick s).v = s.v := by simp only [interruptTick]; split <;> rfl
@[simp] theorem interruptTick_idx (s : State) : (interruptTick s).idx = s.idx := by simp only [interruptTick]; split <;> rfl
@[simp] theorem interruptTick_pc (s : State) : (interruptTick s).pc = s.pc := by simp only [interruptTick]; split <;> rfl
@[simp] theorem interruptTick_sp (s : State) : (interruptTick s).sp = s.sp := by simp only [interruptTick]; split <;> rfl
@[simp] theorem interruptTick_dt (s : State) : (interruptTick s).dt = s.dt := by simp only [interruptTick]; split <;> rfl
@[simp] theorem interruptTick_st (s : State) : (interruptTick s).st = s.st := by simp only [interruptTick]; split <;> rfl
@[simp] theorem interruptTick_sound (s : State) : (interruptTick s).sound = s.sound := by simp only [interruptTick]; split <;> rfl
@[simp] theorem interruptTick_mode (s : State) : (interruptTick s).mode = s.mode := by simp only [interruptTick]; split <;> rfl
@[simp] theorem interruptTick_phys (s : State) : (interruptTick s).phys = s.phys := by simp only [interruptTick]; split <;> rfl
@[simp] theorem interruptTick_rpl (s : State) : (interruptTick s).rpl = s.rpl := by simp only [interruptTick]; split <;> rfl
@[simp] theorem interruptTick_mem (s : State) : (interruptTick s).mem = s.mem := by simp only [interruptTick]; split <;> rfl
@[simp] theorem interruptTick_prevKeys (s : State) : (interruptTick s).prevKeys = s.prevKeys := by simp only [interruptTick]; split <;> rfl
@[simp] theorem interruptTick_kjpValid (s : State) : (interruptTick s).kjpValid = s.kjpValid := by simp only [interruptTick]; split <;> rfl
@[simp] theorem interruptTick_kjpKey (s : State) : (interruptTick s).kjpKey = s.kjpKey := by simp only [interruptTick]; split <;> rfl
@[simp] theorem interruptTick_run (s : State) : (interruptTick s).run = s.run := by simp only [interruptTick]; split <;> rfl
@[simp] theorem interruptTick_errReason (s : State) : (interruptTick s).errReason = s.errReason := by simp only [interruptTick]; split <;> rfl
@[simp] theorem interruptTick_errOpcode (s : State) : (interruptTick s).errOpcode = s.errOpcode := by simp only [interruptTick]; split <;> rfl
@[simp] theorem interruptTick_errPc (s : State) : (interruptTick s).errPc = s.errPc := by simp only [interruptTick]; split <;> rfl
@[simp] theorem interruptTick_sliceLeft (s : State) : (interruptTick s).sliceLeft = s.sliceLeft := by simp only [interruptTick]; split <;> rfl
@[simp] theorem interruptTick_ia (s : State) : (interruptTick s).ia = s.ia := by simp only [interruptTick]; split <;> rfl
@[simp] theorem interruptTick_ir (s : State) : (interruptTick s).ir = s.ir := by simp only [interruptTick]; split <;> rfl
@[simp] theorem interruptTick_cfg (s : State) : (interruptTick s).cfg = s.cfg := by simp only [interruptTick]; split <;> rfl
@[simp] theorem interruptTick_phase (s : State) : (interruptTick s).phase = s.phase := by simp only [interruptTick]; split <;> rfl
@[simp] theorem interruptTick_loaded (s : State) : (interruptTick s).loaded = s.loaded := by simp only [interruptTick]; split <;> rfl
@[simp] theorem interruptTick_wasReset (s : State) : (interruptTick s).wasReset = s.wasReset := by simp only [interruptTick]; split <;> rfl
@[simp] theorem interruptTick_draws (s : State) : (interruptTick s).draws = s.draws := by simp only [interruptTick]; split <;> rfl
@[simp] theorem interruptTick_hostMoves (s : State) : (interruptTick s).hostMoves = s.hostMoves := by simp only [interruptTick]; split <;> rfl

/-! ### `keyScan` -/

@[simp] theorem keyScan_v (s : State) : (keyScan s).v = s.v := by unfold keyScan; split <;> rfl
@[simp] theorem keyScan_idx (s : State) : (keyScan s).idx = s.idx := by unfold keyScan; split <;> rfl
@[simp] theorem keyScan_pc (s : State) : (keyScan s).pc = s.pc := by unfold keyScan; split <;> rfl
@[simp] theorem keyScan_sp (s : State) : (keyScan s).sp = s.sp := by unfold keyScan; split <;> rfl
@[simp] theorem keyScan_dt (s : State) : (keyScan s).dt = s.dt := by unfold keyScan; split <;> rfl
@[simp] theorem keyScan_st (s : State) : (keyScan s).st = s.st := by unfold keyScan; split <;> rfl
@[simp] theorem keyScan_sound (s : State) : (keyScan s).sound = s.sound := by unfold keyScan; split <;> rfl
@[simp] theorem keyScan_mode (s : State) : (keyScan s).mode = s.mode := by unfold keyScan; split <;> rfl
@[simp] theorem keyScan_phys (s : State) : (keyScan s).phys = s.phys := by unfold keyScan; split <;> rfl
@[simp] theorem keyScan_rpl (s : State) : (keyScan s).rpl = s.rpl := by unfold keyScan; split <;> rfl
@[simp] theorem keyScan_mem (s : State) : (keyScan s).mem = s.mem := by unfold keyScan; split <;> rfl
@[simp] theorem keyScan_keys (s : State) : (keyScan s).keys = s.keys := by unfold keyScan; split <;> rfl
@[simp] theorem keyScan_run (s : State) : (keyScan s).run = s.run := by unfold keyScan; split <;> rfl
@[simp] theorem keyScan_errReason (s : State) : (keyScan s).errReason = s.errReason := by unfold keyScan; split <;> rfl
@[simp] theorem keyScan_errOpcode (s : State) : (keyScan s).errOpcode = s.errOpcode := by unfold keyScan; split <;> rfl
@[simp] theorem keyScan_errPc (s : State) : (keyScan s).errPc = s.errPc := by unfold keyScan; split <;> rfl
@[simp] theorem keyScan_sliceLeft (s : State) : (keyScan s).sliceLeft = s.sliceLeft := by unfold keyScan; split <;> rfl
@[simp] theorem keyScan_ia (s : State) : (keyScan s).ia = s.ia := by unfold keyScan; split <;> rfl
@[simp] theorem keyScan_ir (s : State) : (keyScan s).ir = s.ir := by unfold keyScan; split <;> rfl
@[simp] theorem keyScan_cfg (s : State) : (keyScan s).cfg = s.cfg := by unfold keyScan; split <;> rfl
@[simp] theorem keyScan_phase (s : State) : (keyScan s).phase = s.phase := by unfold keyScan; split <;> rfl
@[simp] theorem keyScan_loaded (s : State) : (keyScan s).loaded = s.loaded := by unfold keyScan; split <;> rfl
@[simp] theorem keyScan_wasReset (s : State) : (keyScan s).wasReset = s.wasReset := by unfold keyScan; split <;> rfl
@[simp] theorem keyScan_draws (s : State) : (keyScan s).draws = s.draws := by unfold keyScan; split <;> rfl
@[simp] theorem keyScan_events (s : State) : (keyScan s).events = s.events := by unfold keyScan; split <;> rfl
@[simp] theorem keyScan_hostMoves (s : State) : (keyScan s).hostMoves = s.hostMoves := by unfold keyScan; split <;> rfl
@[simp] theorem keyScan_hookKeys (s : State) : (keyScan s).hookKeys = s.hookKeys := by unfold keyScan; split <;> rfl

/-! ### `endOfSlice` -/

@[simp] theorem endOfSlice_v (s : State) : (endOfSlice s).v = s.v := by simp [endOfSlice]
@[simp] theorem endOfSlice_idx (s : State) : (endOfSlice s).idx = s.idx := by simp [endOfSlice]
@[simp] theorem endOfSlice_pc (s : State) : (endOfSlice s).pc = s.pc := by simp [endOfSlice]
@[simp] theorem endOfSlice_sp (s : State) : (endOfSlice s).sp = s.sp := by simp [endOfSlice]
@[simp] theorem endOfSlice_mode (s : State) : (endOfSlice s).mode = s.mode := by simp [endOfSlice]
@[simp] theorem endOfSlice_phys (s : State) : (endOfSlice s).phys = s.phys := by simp [endOfSlice]
@[simp] theorem endOfSlice_rpl (s : State) : (endOfSlice s).rpl = s.rpl := by simp [endOfSlice]
@[simp] theorem endOfSlice_mem (s : State) : (endOfSlice s).mem = s.mem := by simp [endOfSlice]
@[simp] theorem endOfSlice_run (s : State) : (endOfSlice s).run = s.run := by simp [endOfSlice]
@[simp] theorem endOfSlice_errReason (s : State) : (endOfSlice s).errReason = s.errReason := by simp [endOfSlice]
@[simp] theorem endOfSlice_errOpcode (s : State) : (endOfSlice s).errOpcode = s.errOpcode := by simp [endOfSlice]
@[simp] theorem endOfSlice_errPc (s : State) : (endOfSlice s).errPc = s.errPc := by simp [endOfSlice]
@[simp] theorem endOfSlice_sliceLeft (s : State) : (endOfSlice s).sliceLeft = s.sliceLeft := by simp [endOfSlice]
@[simp] theorem endOfSlice_ia (s : State) : (endOfSlice s).ia = s.ia := by simp [endOfSlice]
@[simp] theorem endOfSlice_ir (s : State) : (endOfSlice s).ir = s.ir := by simp [endOfSlice]
@[simp] theorem endOfSlice_cfg (s : State) : (endOfSlice s).cfg = s.cfg := by simp [endOfSlice]
@[simp] theorem endOfSlice_phase (s : State) : (endOfSlice s).phase = s.phase := by simp [endOfSlice]
@[simp] theorem endOfSlice_loaded (s : State) : (endOfSlice s).loaded = s.loaded := by simp [endOfSlice]
@[simp] theorem endOfSlice_wasReset (s : State) : (endOfSlice s).wasReset = s.wasReset := by simp [endOfSlice]
@[simp] theorem endOfSlice_draws (s : State) : (endOfSlice s).draws = s.draws := by simp [endOfSlice]
@[simp] theorem endOfSlice_hostMoves (s : State) : (endOfSlice s).hostMoves = s.hostMoves := by simp [endOfSlice]

/-! ### `closeStep` -/

@[simp] theorem closeStep_v (s : State) : (closeStep s).v = s.v := by unfold closeStep; (repeat' split) <;> simp
@[simp] theorem closeStep_idx (s : State) : (closeStep s).idx = s.idx := by unfold closeStep; (repeat' split) <;> simp
@[simp] theorem closeStep_pc (s : State) : (closeStep s).pc = s.pc := by unfold closeStep; (repeat' split) <;> simp
@[simp] theorem closeStep_sp (s : State) : (closeStep s).sp = s.sp := by unfold closeStep; (repeat' split) <;> simp
@[simp] theorem closeStep_mode (s : State) : (closeStep s).mode = s.mode := by unfold closeStep; (repeat' split) <;> simp
@[simp] theorem closeStep_phys (s : State) : (closeStep s).phys = s.phys := by unfold closeStep; (repeat' split) <;> simp
@[simp] theorem closeStep_rpl (s : State) : (closeStep s).rpl = s.rpl := by unfold closeStep; (repeat' split) <;> simp
@[simp] theorem closeStep_mem (s : State) : (closeStep s).mem = s.mem := by unfold closeStep; (repeat' split) <;> simp
@[simp] theorem closeStep_run (s : State) : (closeStep s).run = s.run := by unfold closeStep; (repeat' split) <;> simp
@[simp] theorem closeStep_errReason (s : State) : (closeStep s).errReason = s.errReason := by unfold closeStep; (repeat' split) <;> simp
@[simp] theorem closeStep_errOpcode (s : State) : (closeStep s).errOpcode = s.errOpcode := by unfold closeStep; (repeat' split) <;> simp
@[simp] theorem closeStep_errPc (s : State) : (closeStep s).errPc = s.errPc := by unfold closeStep; (repeat' split) <;> simp
@[simp] theorem closeStep_sliceLeft (s : State) : (closeStep s).sliceLeft = s.sliceLeft := by unfold closeStep; (repeat' split) <;> simp
@[simp] theorem closeStep_ia (s : State) : (closeStep s).ia = s.ia := by unfold closeStep; (repeat' split) <;> simp
@[simp] theorem closeStep_ir (s : State) : (closeStep s).ir = s.ir := by unfold closeStep; (repeat' split) <;> simp
@[simp] theorem closeStep_cfg (s : State) : (closeStep s).cfg = s.cfg := by unfold closeStep; (repeat' split) <;> simp
@[simp] theorem closeStep_loaded (s : State) : (closeStep s).loaded = s.loaded := by unfold closeStep; (repeat' split) <;> simp
@[simp] theorem closeStep_wasReset (s : State) : (closeStep s).wasReset = s.wasReset := by unfold closeStep; (repeat' split) <;> simp
@[simp] theorem closeStep_draws (s : State) : (closeStep s).draws = s.draws := by unfold closeStep; (repeat' split) <;> simp
@[simp] theorem closeStep_hostMoves (s : State) : (closeStep s).hostMoves = s.hostMoves := by unfold closeStep; (repeat' split) <;> simp

/-! ### What the actions write -/

/-- The delay timer stops at 0 (R245, R251). -/
theorem toNat_tickDelay_dt (s : State) : (tickDelay s).dt.toNat = s.dt.toNat - 1 := by
  unfold tickDelay
  split
  · simp_all
  · have hne : s.dt.toNat ≠ 0 := fun e => ‹¬ s.dt = 0› (BitVec.eq_of_toNat_eq e)
    show (s.dt - 1).toNat = _
    have := s.dt.isLt
    rw [BitVec.toNat_sub, show (1 : Byte).toNat = 1 from rfl]
    omega

/-- The sound timer stops at 0, and turns the sound off on the way from 1 to 0 alone (R246). -/
theorem tickSound_writes (s : State) :
    (tickSound s).st.toNat = s.st.toNat - 1 ∧ (tickSound s).sound = (if s.st = 1 then false else s.sound) ∧
      (tickSound s).events = s.events ++ (if s.st = 1 then [.soundOff] else []) := by
  unfold tickSound
  by_cases h0 : s.st = 0
  · simp [h0]
  · have hne : s.st.toNat ≠ 0 := fun e => h0 (BitVec.eq_of_toNat_eq e)
    have hsub : (s.st - 1).toNat = s.st.toNat - 1 := by
      have := s.st.isLt
      rw [BitVec.toNat_sub, show (1 : Byte).toNat = 1 from rfl]
      omega
    by_cases h1 : s.st = 1
    · simp [h1]
    · have hz : ¬ s.st - 1 = 0 := fun e => h1 (BitVec.eq_of_toNat_eq (by
        have e0 : s.st.toNat - 1 = 0 := by rw [← hsub, e]; rfl
        show s.st.toNat = 1
        omega))
      rw [if_neg h0, if_neg hz, if_neg h1, if_neg h1]
      exact ⟨hsub, rfl, (List.append_nil _).symm⟩

/-- The callback signals `interrupt_tick`, and the host may write `KEYS` in it (R247). -/
theorem interruptTick_writes (s : State) :
    (interruptTick s).events = s.events ++ [.interruptTick] ∧ (interruptTick s).hookKeys = s.hookKeys.tail ∧
      (interruptTick s).keys = (match s.hookKeys.head? with | some (some k) => k | _ => s.keys) := by
  cases h : s.hookKeys with
  | nil => simp [interruptTick, emit, h]
  | cons k rest => cases k <;> simp [interruptTick, emit, h]

/-- The keys held, as a list of their numbers. -/
theorem mem_heldKeys (k : BitVec 16) (i : Nat) : i ∈ heldKeys k ↔ i < 16 ∧ k.getLsbD i = true := by
  simp [heldKeys, nKeys]

/-- A closed step is inside the slice exactly where the core runs with budget left (R243). -/
theorem closeStep_phase (s : State) : (closeStep s).phase = .inSlice ↔ s.run = .running ∧ s.sliceLeft ≠ 0 := by
  unfold closeStep
  split
  · split <;> simp_all
  · simp_all

end Sys2Proof.Machine
end

