-- ==== Sys2Proof/Laws/Step.lean ====
section
/-! SUPPORT. Laws/Step.lean: what an instruction and a step can do, said once. -/

namespace Sys2Proof.Machine

open Sys2Proof.Safety

/-! ### The instruction -/

/-- No instruction's meaning stops. -/
theorem exec_completes (i : Instr) (s : State) : ∃ t, exec i s = .next t := by
  cases i
  case ret => simp only [exec, execRet]; split <;> exact ⟨_, rfl⟩
  case call => simp only [exec, execCall]; split <;> exact ⟨_, rfl⟩
  case ldVxK => simp only [exec, execLdVxK]; split <;> exact ⟨_, rfl⟩
  case ldStVx => simp only [exec, execLdStVx]; split <;> exact ⟨_, rfl⟩
  case ldRVx => simp only [exec, execLdRVx]; split <;> exact ⟨_, rfl⟩
  case ldVxR => simp only [exec, execLdVxR]; split <;> exact ⟨_, rfl⟩
  all_goals exact ⟨_, rfl⟩

/-- The parts of the state that some instruction writes. -/
def writable : List Part :=
  [.v, .idx, .pc, .sp, .dt, .st, .sound, .mode, .phys, .rpl, .mem, .keys, .prevKeys, .kjp, .run, .err, .draws, .events, .wasReset]

/-- No instruction writes the slice's budget, its phase, the fetch latches, the configuration, the record of `Load` or the host's coming
moves. -/
theorem exec_frame {i : Instr} {s t : State} (h : exec i s = .next t) : SameBut writable s t := by
  have hw : ∀ {ps : List Part} {t : State}, SameBut ps s t → (∀ p ∈ ps, p ∈ writable) → SameBut writable s t :=
    fun hf hp => hf.mono hp
  cases i
  case ret =>
    simp only [exec, execRet] at h; split at h <;> cases h
    · exact hw (sameBut_raiseError s _) (by decide)
    · apply SameBut.of_fields <;> simp [writable]
  case call =>
    simp only [exec, execCall] at h; split at h <;> cases h
    · exact hw (sameBut_raiseError s _) (by decide)
    · apply SameBut.of_fields <;> simp [writable]
  case ldVxK =>
    simp only [exec, execLdVxK] at h; split at h <;> cases h
    · exact hw (sameBut_setV s _ _) (by decide)
    · exact hw (sameBut_setPc s _) (by decide)
  case ldStVx =>
    simp only [exec, execLdStVx] at h; split at h <;> cases h <;> apply SameBut.of_fields <;> simp [writable]
  case ldRVx =>
    simp only [exec, execLdRVx] at h; split at h <;> cases h
    · exact hw (SameBut.foldl (fun s a => sameBut_setRpl s _ _) _ s) (by decide)
    · exact hw (sameBut_raiseError s _) (by decide)
  case ldVxR =>
    simp only [exec, execLdVxR] at h; split at h <;> cases h
    · exact hw (SameBut.foldl (fun s a => sameBut_setV s _ _) _ s) (by decide)
    · exact hw (sameBut_raiseError s _) (by decide)
  case ldVxMi => cases h; exact hw (SameBut.foldl (fun s a => sameBut_setV s _ _) _ s) (by decide)
  case exit => cases h; exact hw (sameBut_doReset s) (by decide)
  case scd => cases h; exact hw (sameBut_scroll s _) (by decide)
  case scr => cases h; exact hw (sameBut_scroll s _) (by decide)
  case scl => cases h; exact hw (sameBut_scroll s _) (by decide)
  case seVxKk => cases h; exact hw (sameBut_skipIf _ s) (by decide)
  case sneVxKk => cases h; exact hw (sameBut_skipIf _ s) (by decide)
  case seVxVy => cases h; exact hw (sameBut_skipIf _ s) (by decide)
  case sneVxVy => cases h; exact hw (sameBut_skipIf _ s) (by decide)
  case skp => cases h; exact hw (sameBut_skipIf _ s) (by decide)
  case sknp => cases h; exact hw (sameBut_skipIf _ s) (by decide)
  all_goals cases h; apply SameBut.of_fields <;> simp [writable]

/-- How an instruction can leave `RUN` and the error registers: as they were, as an error leaves them, or as a reset does. -/
theorem exec_run {i : Instr} {s t : State} (h : exec i s = .next t) :
    Part.Same s t .run ∧ Part.Same s t .err ∨
    (∃ r, r ∈ [Reason.unknownOpcode, .stackOverflow, .stackUnderflow] ∧ t = raiseError s r) ∨ t = doReset s := by
  have hw : ∀ {ps : List Part} {t : State}, SameBut ps s t → decide (.run ∈ ps) = false → decide (.err ∈ ps) = false →
      Part.Same s t .run ∧ Part.Same s t .err ∨
      (∃ r, r ∈ [Reason.unknownOpcode, .stackOverflow, .stackUnderflow] ∧ t = raiseError s r) ∨ t = doReset s :=
    fun hf h1 h2 => .inl ⟨hf _ (of_decide_eq_false h1), hf _ (of_decide_eq_false h2)⟩
  cases i
  case ret =>
    simp only [exec, execRet] at h; split at h <;> cases h
    · exact .inr (.inl ⟨_, by decide, rfl⟩)
    · exact .inl ⟨rfl, rfl, rfl, rfl⟩
  case call =>
    simp only [exec, execCall] at h; split at h <;> cases h
    · exact .inr (.inl ⟨_, by decide, rfl⟩)
    · exact .inl ⟨rfl, rfl, rfl, rfl⟩
  case ldVxK => simp only [exec, execLdVxK] at h; split at h <;> cases h <;> exact .inl ⟨rfl, rfl, rfl, rfl⟩
  case ldStVx => simp only [exec, execLdStVx] at h; split at h <;> cases h <;> exact .inl ⟨rfl, rfl, rfl, rfl⟩
  case ldRVx =>
    simp only [exec, execLdRVx] at h; split at h <;> cases h
    · exact hw (SameBut.foldl (fun s a => sameBut_setRpl s _ _) _ s) rfl rfl
    · exact .inr (.inl ⟨_, by decide, rfl⟩)
  case ldVxR =>
    simp only [exec, execLdVxR] at h; split at h <;> cases h
    · exact hw (SameBut.foldl (fun s a => sameBut_setV s _ _) _ s) rfl rfl
    · exact .inr (.inl ⟨_, by decide, rfl⟩)
  case ldVxMi => cases h; exact hw (SameBut.foldl (fun s a => sameBut_setV s _ _) _ s) rfl rfl
  case exit => cases h; exact .inr (.inr rfl)
  case seVxKk => cases h; exact hw (sameBut_skipIf _ s) rfl rfl
  case sneVxKk => cases h; exact hw (sameBut_skipIf _ s) rfl rfl
  case seVxVy => cases h; exact hw (sameBut_skipIf _ s) rfl rfl
  case sneVxVy => cases h; exact hw (sameBut_skipIf _ s) rfl rfl
  case skp => cases h; exact hw (sameBut_skipIf _ s) rfl rfl
  case sknp => cases h; exact hw (sameBut_skipIf _ s) rfl rfl
  case ldBVx => cases h; exact hw (sameBut_memWriteBytes s _ _) rfl rfl
  case ldMiVx => cases h; exact hw (sameBut_memWriteBytes s _ _) rfl rfl
  all_goals cases h; exact .inl ⟨rfl, rfl, rfl, rfl⟩

/-- No instruction takes the record of `Reset` back. -/
theorem exec_wasReset {i : Instr} {s t : State} (h : exec i s = .next t) (hs : s.wasReset = true) : t.wasReset = true := by
  have hw : ∀ {ps : List Part} {t : State}, SameBut ps s t → decide (.wasReset ∈ ps) = false → t.wasReset = true :=
    fun hf hp => Eq.trans (hf .wasReset (of_decide_eq_false hp) : _ = _) hs
  cases i
  case ret => simp only [exec, execRet] at h; split at h <;> cases h <;> exact hs
  case call => simp only [exec, execCall] at h; split at h <;> cases h <;> exact hs
  case ldVxK => simp only [exec, execLdVxK] at h; split at h <;> cases h <;> exact hs
  case ldStVx => simp only [exec, execLdStVx] at h; split at h <;> cases h <;> exact hs
  case ldRVx =>
    simp only [exec, execLdRVx] at h; split at h <;> cases h
    · exact hw (SameBut.foldl (fun s a => sameBut_setRpl s _ _) _ s) rfl
    · exact hs
  case ldVxR =>
    simp only [exec, execLdVxR] at h; split at h <;> cases h
    · exact hw (SameBut.foldl (fun s a => sameBut_setV s _ _) _ s) rfl
    · exact hs
  case ldVxMi => cases h; exact hw (SameBut.foldl (fun s a => sameBut_setV s _ _) _ s) rfl
  case seVxKk => cases h; exact hw (sameBut_skipIf _ s) rfl
  case sneVxKk => cases h; exact hw (sameBut_skipIf _ s) rfl
  case seVxVy => cases h; exact hw (sameBut_skipIf _ s) rfl
  case sneVxVy => cases h; exact hw (sameBut_skipIf _ s) rfl
  case skp => cases h; exact hw (sameBut_skipIf _ s) rfl
  case sknp => cases h; exact hw (sameBut_skipIf _ s) rfl
  case ldBVx => cases h; exact hw (sameBut_memWriteBytes s _ _) rfl
  case ldMiVx => cases h; exact hw (sameBut_memWriteBytes s _ _) rfl
  all_goals cases h; first | exact hs | rfl

/-! ### One instruction of a slice -/

/-- What a run of one instruction can be: the decoded instruction's meaning, or an unknown word's error. -/
theorem runInstr_cases {s t : State} (h : runInstr s = .next t) :
    Booted s ∧
    ((∃ i, decode (fetch s).ir = .ok i ∧ exec i (fetch s) = .next t) ∨
      (∃ e, decode (fetch s).ir = .error e ∧ t = raiseError (fetch s) .unknownOpcode)) := by
  unfold runInstr at h
  split at h
  · split at h
    · refine ⟨⟨‹_›, ‹_›⟩, ?_⟩
      split at h
      · exact .inl ⟨_, ‹_›, h⟩
      · cases h; exact .inr ⟨_, ‹_›, rfl⟩
    · cases h
  · cases h

/-- After `Load` and `Reset`, a run of one instruction completes. -/
theorem runInstr_completes {s : State} (h : Booted s) : ∃ t, runInstr s = .next t := by
  unfold runInstr
  rw [if_pos h.1, if_pos h.2]
  split
  · exact exec_completes _ _
  · exact ⟨_, rfl⟩

/-- The state at the start of a step's instruction, before the fetch. -/
def atFetch (s : State) : State :=
  { s with
    events := []
    sliceLeft := if s.phase = .inSlice then s.sliceLeft else s.cfg.opsPerSlice
    hostMoves := if s.phase = .inSlice then s.hostMoves else s.hostMoves.tail }

theorem fetch_atFetch (s : State) : fetch (atFetch s) = entryState s := rfl

/-! ### The step -/

/-- A step that runs an instruction (R243). -/
theorem step_of_runs {s : State} (h : RunsInstruction s) : step s = sliceStep (atFetch s) := by
  obtain ⟨hl, hr, ⟨hp, hs⟩ | ⟨hp, hm | ⟨rest, hm⟩⟩⟩ := h
  · simp [step, coreStep, hl, hp, hr, atFetch, Nat.pos_iff_ne_zero.1 hs]
  · simp [step, coreStep, hl, hp, hm, hr, atFetch, startSlice]
  · simp [step, coreStep, hl, hp, hm, hr, atFetch, startSlice]

/-- Everything a step that answers a next state can have done. -/
theorem step_cases {s t : State} (h : step s = .next t) :
    s.cfg.Legal ∧
    ((RunsInstruction s ∧ ∃ u, runInstr (atFetch s) = .next u ∧ t = closeStep { u with sliceLeft := u.sliceLeft - 1 }) ∨
      (s.phase = .inSlice ∧ ¬ (s.run = .running ∧ s.sliceLeft ≠ 0) ∧ t = closeStep { s with events := [] }) ∨
      (s.phase = .between ∧ s.run ≠ .running ∧ t = { s with events := [], hostMoves := s.hostMoves.tail }) ∨
      (∃ m rest, s.phase = .between ∧ m ≠ .slice ∧ s.hostMoves = m :: rest ∧ t = hostMove { s with events := [], hostMoves := rest } m)) := by
  by_cases hl : s.cfg.Legal
  · refine ⟨hl, ?_⟩
    by_cases hi : RunsInstruction s
    · rw [step_of_runs hi, sliceStep] at h
      split at h <;> cases h
      exact .inl ⟨hi, _, ‹_›, rfl⟩
    · simp only [step, coreStep, if_pos hl] at h
      cases hp : s.phase with
      | inSlice =>
        simp only [hp] at h
        by_cases hc : s.run = .running ∧ s.sliceLeft ≠ 0
        · exact absurd ⟨hl, hc.1, .inl ⟨hp, Nat.pos_iff_ne_zero.2 hc.2⟩⟩ hi
        · rw [if_neg hc] at h; cases h; exact .inr (.inl ⟨rfl, hc, rfl⟩)
      | between =>
        simp only [hp] at h
        have hno : (s.hostMoves = [] ∨ ∃ rest, s.hostMoves = .slice :: rest) → s.run ≠ .running :=
          fun hm hr => hi ⟨hl, hr, .inr ⟨hp, hm⟩⟩
        split at h
        · have hr := hno (.inl ‹_›)
          rw [startSlice, if_neg hr] at h; cases h
          exact .inr (.inr (.inl ⟨rfl, hr, by simp_all⟩))
        · have hr := hno (.inr ⟨_, ‹_›⟩)
          rw [startSlice, if_neg hr] at h; cases h
          exact .inr (.inr (.inl ⟨rfl, hr, by simp_all⟩))
        · cases h
          rename_i hne heq
          exact .inr (.inr (.inr ⟨_, _, rfl, hne, heq, rfl⟩))
  · simp only [step, coreStep, if_neg hl] at h; cases h

end Sys2Proof.Machine
end

