-- ==== Sys2Proof/Tests/Slice0.lean ====
section
/-! SUPPORT. Tests/Slice0.lean: the model's own tests: the well-formedness smoke test, a word of every constructor written out from the spec's
encoding of it, one-step tests with results from spec/95_test_vectors.md, and a witness for the hypotheses of every statement. -/

namespace Sys2Proof.Tests

open Sys2Proof.Machine Sys2Proof.Safety

-- One test after another: each is a kernel evaluation of its own.
set_option Elab.async false

/-! ### Helpers -/

/-- The result is a next state that passes the check. -/
def after (r : Result) (p : State → Bool) : Bool :=
  match r with
  | .next t => p t
  | .fault _ => false
  | .refused _ => false

theorem next_of_after {r : Result} {p : State → Bool} (h : after r p = true) : ∃ t, r = .next t ∧ p t = true := by
  cases r with
  | next t => exact ⟨t, rfl, h⟩
  | fault _ => cases h
  | refused _ => cases h

/-- The default start state of 95_test_vectors.md with some registers set. -/
def regs (l : List (Nibble × Byte)) : State := l.foldl (fun s p => setV s p.1 p.2) State.reset

/-- One step of a word at `PC`, then a check. -/
def stepped (s : State) (w : Nat) (p : State → Bool) : Bool := after (step (s.withFetchWord 16 w)) p

/-- Some bytes of memory set. -/
def bytes (s : State) (a : Nat) (l : List Byte) : State := memWriteBytes s a l

/-- Some cells of the display lit, each as row and column. -/
def lit (s : State) (l : List (Nat × Nat)) : State :=
  { s with phys := l.foldl (fun p rc => setCell p rc.1 rc.2 true) s.phys }

/-- The extended mode. -/
def extended (s : State) : State := { s with mode := .extended }

/-- Power-on with 0xAA in every register that is unspecified there. -/
def powered : State := State.powerOn { State.reset with v := Vector.replicate 16 0xAA, idx := 0xAAAA, pc := 0xAAAA, sp := 0xAAAA, dt := 0xAA }

/-- A machine under the `Halt` policy. -/
def halting (s : State) : State := { s with cfg := { s.cfg with errPolicy := .halting } }

/-! ### Well-formedness: an ill-formed term for each check -/

theorem test_wellFormed_ldRVx : (Instr.ldRVx 7).wellFormed = true ∧ (Instr.ldRVx 8).wellFormed = false := by decide

theorem test_wellFormed_ldVxR : (Instr.ldVxR 7).wellFormed = true ∧ (Instr.ldVxR 0xF).wellFormed = false := by decide

/-! ### Decoding: a word of every constructor, bit by bit as memory holds it (30_encoding R81, R82, R84-R90) -/

theorem test_decode_family0 :
    decodeBytes [0b00000101, 0b11100000] = .ok (.cls 0x5, []) ∧
    decodeBytes [0b00000000, 0b11101110] = .ok (.ret 0x0, []) ∧
    decodeBytes [0b00000001, 0b11000011] = .ok (.scd 0x1 0x3, []) ∧
    decodeBytes [0b00000000, 0b11111011] = .ok (.scr 0x0, []) ∧
    decodeBytes [0b00001111, 0b11111100] = .ok (.scl 0xF, []) ∧
    decodeBytes [0b00000000, 0b11111101] = .ok (.exit 0x0, []) ∧
    decodeBytes [0b00000000, 0b11111110] = .ok (.low 0x0, []) ∧
    decodeBytes [0b00001000, 0b11111111] = .ok (.high 0x8, []) := by decide

theorem test_decode_families_1_to_7 :
    decodeBytes [0b00010010, 0b00001000] = .ok (.jp 0x208, []) ∧
    decodeBytes [0b00101010, 0b10111100] = .ok (.call 0xABC, []) ∧
    decodeBytes [0b00110001, 0b00000110] = .ok (.seVxKk 0x1 0x06, []) ∧
    decodeBytes [0b01000010, 0b00000001] = .ok (.sneVxKk 0x2 0x01, []) ∧
    decodeBytes [0b01010001, 0b00100111] = .ok (.seVxVy 0x1 0x2 0x7, []) ∧
    decodeBytes [0b01101010, 0b01010101] = .ok (.ldVxKk 0xA 0x55, []) ∧
    decodeBytes [0b01111111, 0b11110101] = .ok (.addVxKk 0xF 0xF5, []) := by decide

theorem test_decode_family8 :
    decodeBytes [0b10000000, 0b00010000] = .ok (.ldVxVy 0x0 0x1, []) ∧
    decodeBytes [0b10000000, 0b00010001] = .ok (.orVxVy 0x0 0x1, []) ∧
    decodeBytes [0b10000000, 0b00010010] = .ok (.andVxVy 0x0 0x1, []) ∧
    decodeBytes [0b10000000, 0b00010011] = .ok (.xorVxVy 0x0 0x1, []) ∧
    decodeBytes [0b10001111, 0b00010100] = .ok (.addVxVy 0xF 0x1, []) ∧
    decodeBytes [0b10000000, 0b00010101] = .ok (.sub 0x0 0x1, []) ∧
    decodeBytes [0b10000010, 0b10010110] = .ok (.shr 0x2 0x9, []) ∧
    decodeBytes [0b10000000, 0b00010111] = .ok (.subn 0x0 0x1, []) ∧
    decodeBytes [0b10000011, 0b00001110] = .ok (.shl 0x3 0x0, []) := by decide

theorem test_decode_nop8 :
    decodeBytes [0b10000001, 0b00101000] = .ok (.nop8x8 0x12, []) ∧
    decodeBytes [0b10000001, 0b00101001] = .ok (.nop8x9 0x12, []) ∧
    decodeBytes [0b10000001, 0b00101010] = .ok (.nop8xA 0x12, []) ∧
    decodeBytes [0b10000001, 0b00101011] = .ok (.nop8xB 0x12, []) ∧
    decodeBytes [0b10000001, 0b00101100] = .ok (.nop8xC 0x12, []) ∧
    decodeBytes [0b10000000, 0b00011101] = .ok (.nop8xD 0x01, []) ∧
    decodeBytes [0b10000001, 0b00101111] = .ok (.nop8xF 0x12, []) := by decide

theorem test_decode_families_9_to_E :
    decodeBytes [0b10010101, 0b01100000] = .ok (.sneVxVy 0x5 0x6 0x0, []) ∧
    decodeBytes [0b10100011, 0b00000000] = .ok (.ldINnn 0x300, []) ∧
    decodeBytes [0b10110011, 0b00000001] = .ok (.jpV0 0x301, []) ∧
    decodeBytes [0b11000101, 0b00001111] = .ok (.rnd 0x5 0x0F, []) ∧
    decodeBytes [0b11010000, 0b00010101] = .ok (.drw 0x0 0x1 0x5, []) ∧
    decodeBytes [0b11100010, 0b10011110] = .ok (.skp 0x2, []) ∧
    decodeBytes [0b11100010, 0b10100001] = .ok (.sknp 0x2, []) := by decide

theorem test_decode_familyF :
    decodeBytes [0b11110110, 0b00000111] = .ok (.ldVxDt 0x6, []) ∧
    decodeBytes [0b11110101, 0b00001010] = .ok (.ldVxK 0x5, []) ∧
    decodeBytes [0b11110011, 0b00010101] = .ok (.ldDtVx 0x3, []) ∧
    decodeBytes [0b11110000, 0b00011000] = .ok (.ldStVx 0x0, []) ∧
    decodeBytes [0b11110010, 0b00011110] = .ok (.addIVx 0x2, []) := by decide

theorem test_decode_familyF_memory :
    decodeBytes [0b11110000, 0b00101001] = .ok (.ldFVx 0x0, []) ∧
    decodeBytes [0b11110011, 0b00110011] = .ok (.ldBVx 0x3, []) ∧
    decodeBytes [0b11110001, 0b01010101] = .ok (.ldMiVx 0x1, []) ∧
    decodeBytes [0b11110010, 0b01100101] = .ok (.ldVxMi 0x2, []) ∧
    decodeBytes [0b11110111, 0b01110101] = .ok (.ldRVx 0x7, []) ∧
    decodeBytes [0b11110011, 0b10000101] = .ok (.ldVxR 0x3, []) := by decide

/-- R90's four kinds of unknown opcode, at the edges of each (DEC-5 to DEC-8, FAM-24). -/
theorem test_decode_unknown :
    decode 0x0123 = .error (.family0 0x23) ∧ decode 0x0000 = .error (.family0 0x00) ∧
    decode 0x00D0 = .error (.family0 0xD0) ∧ decode 0xE19F = .error (.familyE 0x9F) ∧
    decode 0xF0FF = .error (.familyF 0xFF) ∧ decode 0xF875 = .error (.flagStorage 0x8) ∧
    decode 0xF885 = .error (.flagStorage 0x8) ∧ decode 0x00CF = .ok (.scd 0x0 0xF) := by decide

/-- The table's own numbering of a word's bits: bit 15 of the word is bit 7 of the first byte. -/
theorem test_decodeTableWord : decodeTableWord 16 0x6A55 = some (.ldVxKk 0xA 0x55) ∧ decodeTableWord 16 0x0123 = none := by decide

/-! ### Family 0 -/

/-- SYS-1. -/
theorem test_cls : stepped (lit (extended State.reset) [(3, 5)]) 0x00E0
    (fun t => physByte t.phys 3 5 == 0x00 && t.mode == .extended && t.pc == 0x202) = true := by decide +kernel

/-- SYS-2. -/
theorem test_ret : stepped (bytes { State.reset with sp := 0x0FFD } 0xFFE [0x04, 0x02]) 0x00EE
    (fun t => t.pc == 0x204 && t.sp == 0x0FFF) = true := by decide +kernel

/-- SYS-3: the popped word is reduced mod 4096. -/
theorem test_ret_reduces : stepped (bytes { State.reset with sp := 0x0FFD } 0xFFE [0x01, 0x23]) 0x00EE
    (fun t => t.pc == 0x301) = true := by decide +kernel

/-- SYS-4. -/
theorem test_scd : stepped (lit (extended State.reset) [(0, 5)]) 0x00C3
    (fun t => physByte t.phys 3 5 == 0xFF && physByte t.phys 0 5 == 0x00 && physByte t.phys 2 5 == 0x00) = true := by
  decide +kernel

/-- SYS-6: in standard mode the count is in logical rows. -/
theorem test_scd_standard : stepped (lit State.reset [(0, 2), (0, 3), (1, 2), (1, 3)]) 0x00C1
    (fun t => physByte t.phys 2 2 == 0xFF && physByte t.phys 3 3 == 0xFF && physByte t.phys 0 2 == 0x00 &&
      physByte t.phys 4 2 == 0x00) = true := by decide +kernel

/-- SYS-7: what leaves the right edge is lost. -/
theorem test_scr : stepped (lit (extended State.reset) [(0, 0), (0, 3), (0, 124), (0, 127)]) 0x00FB
    (fun t => physByte t.phys 0 4 == 0xFF && physByte t.phys 0 7 == 0xFF && physByte t.phys 0 0 == 0x00 &&
      physByte t.phys 0 3 == 0x00 && physByte t.phys 0 127 == 0x00) = true := by decide +kernel

/-- SYS-8: in standard mode the shift is 8 physical columns. -/
theorem test_scr_standard : stepped (lit State.reset [(0, 0), (0, 1), (1, 0), (1, 1)]) 0x00FB
    (fun t => physByte t.phys 0 8 == 0xFF && physByte t.phys 1 9 == 0xFF && physByte t.phys 0 4 == 0x00) = true := by
  decide +kernel

/-- SYS-9. -/
theorem test_scl : stepped (lit (extended State.reset) [(0, 4)]) 0x00FC
    (fun t => physByte t.phys 0 0 == 0xFF && physByte t.phys 0 4 == 0x00) = true := by decide +kernel

/-- SYS-10: what leaves the left edge is lost. -/
theorem test_scl_edge : stepped (lit (extended State.reset) [(5, 2)]) 0x00FC
    (fun t => physByte t.phys 5 2 == 0x00 && physByte t.phys 5 126 == 0x00) = true := by decide +kernel

/-- SYS-11. -/
theorem test_exit :
    stepped (bytes (setRpl { extended (regs [(3, 9)]) with pc := 0x210, st := 5, sound := true } 0 0x44) 0x300 [0x55]) 0x00FD
      (fun t => t.pc == 0x200 && getV t 3 == 0 && t.mode == .standard && t.st == 0 && t.sound == false &&
        t.events == [.soundOff] && getRpl t 0 == 0x44 && memRead t 0x300 == 0x55) = true := by decide +kernel

/-- SYS-12. -/
theorem test_low : stepped (lit (extended State.reset) [(9, 9)]) 0x00FE
    (fun t => t.mode == .standard && physByte t.phys 9 9 == 0x00) = true := by decide +kernel

/-- SYS-13: the display is cleared although the mode is unchanged. -/
theorem test_high : stepped (lit (extended State.reset) [(9, 9)]) 0x00FF
    (fun t => t.mode == .extended && physByte t.phys 9 9 == 0x00) = true := by decide +kernel

/-! ### Families 1 to 7, 9, A, B, C -/

/-- CTL-1. -/
theorem test_jp : stepped State.reset 0x1ABC (fun t => t.pc == 0xABC) = true := by decide +kernel

/-- CTL-2: an odd target. -/
theorem test_jp_odd : stepped State.reset 0x1201 (fun t => t.pc == 0x201 && t.errReason == .none) = true := by decide +kernel

/-- CTL-3. -/
theorem test_call : stepped { State.reset with pc := 0x202 } 0x2208
    (fun t => memRead t 0xFFF == 0x02 && memRead t 0xFFE == 0x04 && t.sp == 0x0FFD && t.pc == 0x208) = true := by
  decide +kernel

/-- CTL-4: the return address wraps. -/
theorem test_call_wrap : stepped { State.reset with pc := 0xFFE } 0x2300
    (fun t => memRead t 0xFFF == 0x00 && memRead t 0xFFE == 0x00 && t.sp == 0x0FFD && t.pc == 0x300) = true := by
  decide +kernel

/-- CTL-5, CTL-7: taken, past the wrap too. -/
theorem test_seVxKk : stepped (regs [(4, 0x22)]) 0x3422 (fun t => t.pc == 0x204) = true ∧
    stepped { regs [(0xF, 0x01)] with pc := 0xFFE } 0x3F01 (fun t => t.pc == 0x002) = true := by decide +kernel

/-- CTL-6: not taken. -/
theorem test_seVxKk_not : stepped (regs [(4, 0x23)]) 0x3422 (fun t => t.pc == 0x202) = true := by decide +kernel

/-- CTL-8. -/
theorem test_sneVxKk : stepped State.reset 0x4201 (fun t => t.pc == 0x204) = true := by decide +kernel

/-- CTL-9. -/
theorem test_seVxVy : stepped (regs [(5, 0x80), (6, 0x80)]) 0x5560 (fun t => t.pc == 0x204) = true := by decide +kernel

/-- DEC-3: the low nibble is ignored. -/
theorem test_seVxVy_ignored : stepped (regs [(1, 7), (2, 7)]) 0x5127 (fun t => t.pc == 0x204) = true := by decide +kernel

/-- W2. -/
theorem test_ldVxKk : stepped State.reset 0x6A55
    (fun t => getV t 0xA == 0x55 && getV t 0x9 == 0 && getV t 0xF == 0 && t.pc == 0x202) = true := by decide +kernel

/-- W1a: the next address wraps. -/
theorem test_ldVxKk_wrap : stepped { State.reset with pc := 0xFFE } 0x6134 (fun t => getV t 1 == 0x34 && t.pc == 0x000) = true := by
  decide +kernel

/-- CTL-13: no carry flag. -/
theorem test_addVxKk : stepped (regs [(1, 0xFF), (0xF, 0x07)]) 0x7101 (fun t => getV t 1 == 0x00 && getV t 0xF == 0x07) = true := by
  decide +kernel

/-- CTL-14: `VF` as a plain register. -/
theorem test_addVxKk_F : stepped (regs [(0xF, 0x10)]) 0x7FF5 (fun t => getV t 0xF == 0x05) = true := by decide +kernel

/-- CTL-10. -/
theorem test_sneVxVy : stepped (regs [(5, 0x80), (6, 0x81)]) 0x9560 (fun t => t.pc == 0x204) = true := by decide +kernel

/-- CTL-11: a register never differs from itself. -/
theorem test_sneVxVy_same : stepped State.reset 0x9770 (fun t => t.pc == 0x202) = true := by decide +kernel

/-- CTL-15. -/
theorem test_ldINnn : stepped State.reset 0xAFFF (fun t => t.idx == 0x0FFF) = true := by decide +kernel

/-- CTL-16. -/
theorem test_jpV0 : stepped (regs [(0, 0xFF)]) 0xBFFF (fun t => t.pc == 0x0FE) = true := by decide +kernel

/-- CTL-17: `V0` whatever bits 11:8 hold, and an odd sum. -/
theorem test_jpV0_odd : stepped (regs [(0, 0x03), (3, 0x40)]) 0xB300 (fun t => t.pc == 0x303) = true := by decide +kernel

/-- CTL-18: a mask of 0 gives 0 for every draw. -/
theorem test_rnd_zero (s : State) : exec (.rnd 0x5 0x00) s = .next (setV { s with draws := s.draws + 1 } 0x5 0x00) := by
  simp [exec, execRnd]

/-- CTL-19: for a draw of 0xA7 the mask 0x0F gives 0x07. -/
theorem test_rnd_mask (s : State) (h : Config.rngByte s.draws = 0xA7) :
    exec (.rnd 0x5 0x0F) s = .next (setV { s with draws := s.draws + 1 } 0x5 0x07) := by
  simp [exec, execRnd, h]

/-! ### Family 8 -/

/-- ALU-1. -/
theorem test_ldVxVy : stepped (regs [(1, 0x2A), (0xF, 0x09)]) 0x8010 (fun t => getV t 0 == 0x2A && getV t 0xF == 0x09) = true := by
  decide +kernel

/-- ALU-2. -/
theorem test_orVxVy : stepped (regs [(0, 0xF0), (1, 0x0F), (0xF, 0x09)]) 0x8011 (fun t => getV t 0 == 0xFF && getV t 0xF == 0x09) = true := by
  decide +kernel

/-- ALU-3. -/
theorem test_andVxVy : stepped (regs [(0, 0xF0), (1, 0x3C)]) 0x8012 (fun t => getV t 0 == 0x30) = true := by decide +kernel

/-- R134's example, and ALU-4. -/
theorem test_xorVxVy : stepped (regs [(0, 0xFF), (1, 0x0F)]) 0x8013 (fun t => getV t 0 == 0xF0) = true ∧
    stepped (regs [(0, 0x5A)]) 0x8003 (fun t => getV t 0 == 0x00) = true := by decide +kernel

/-- W3a. -/
theorem test_addVxVy : stepped (regs [(0, 0xFF), (1, 0x01)]) 0x8014 (fun t => getV t 0 == 0x00 && getV t 0xF == 1) = true := by
  decide +kernel

/-- ALU-7, ALU-8: the flag overwrites the sum. -/
theorem test_addVxVy_F : stepped (regs [(0xF, 0x10), (1, 0xF5)]) 0x8F14 (fun t => getV t 0xF == 1) = true ∧
    stepped (regs [(0xF, 0x01), (1, 0x01)]) 0x8F14 (fun t => getV t 0xF == 0) = true := by decide +kernel

/-- W4a, W4b. -/
theorem test_sub : stepped (regs [(0, 0x05), (1, 0x0A)]) 0x8015 (fun t => getV t 0 == 0xFB && getV t 0xF == 0) = true ∧
    stepped (regs [(0, 0x0A), (1, 0x05)]) 0x8015 (fun t => getV t 0 == 0x05 && getV t 0xF == 1) = true := by decide +kernel

/-- ALU-9: equal operands are no borrow. -/
theorem test_sub_equal : stepped (regs [(0, 0x07), (1, 0x07)]) 0x8015 (fun t => getV t 0 == 0x00 && getV t 0xF == 1) = true := by
  decide +kernel

/-- ALU-11: the second operand is ignored. -/
theorem test_shr : stepped (regs [(2, 0x05), (9, 0xFF)]) 0x8296 (fun t => getV t 2 == 0x02 && getV t 0xF == 1 && getV t 9 == 0xFF) = true := by
  decide +kernel

/-- ALU-13: the flag overwrites the result. -/
theorem test_shr_F : stepped (regs [(0xF, 0x03)]) 0x8FF6 (fun t => getV t 0xF == 1) = true := by decide +kernel

/-- ALU-14, ALU-15. -/
theorem test_subn : stepped (regs [(0, 0x0A), (1, 0x05)]) 0x8017 (fun t => getV t 0 == 0xFB && getV t 0xF == 0) = true ∧
    stepped (regs [(0, 0x05), (1, 0x0A)]) 0x8017 (fun t => getV t 0 == 0x05 && getV t 0xF == 1) = true := by decide +kernel

/-- ALU-16. -/
theorem test_subn_equal : stepped (regs [(0, 0x33), (1, 0x33)]) 0x8017 (fun t => getV t 0 == 0x00 && getV t 0xF == 1) = true := by
  decide +kernel

/-- ALU-17, ALU-18. -/
theorem test_shl : stepped (regs [(3, 0x81)]) 0x830E (fun t => getV t 3 == 0x02 && getV t 0xF == 1) = true ∧
    stepped (regs [(3, 0x7F)]) 0x830E (fun t => getV t 3 == 0xFE && getV t 0xF == 0) = true := by decide +kernel

/-- ALU-19: the flag overwrites the result. -/
theorem test_shl_F : stepped (regs [(0xF, 0x80)]) 0x8FFE (fun t => getV t 0xF == 1) = true := by decide +kernel

/-- DEC-4. -/
theorem test_nop8x8 : stepped (regs [(1, 0x12), (2, 0x34)]) 0x8128
    (fun t => getV t 1 == 0x12 && getV t 2 == 0x34 && t.pc == 0x202 && t.errReason == .none) = true := by decide +kernel

/-- ALU-20. -/
theorem test_nop8xD : stepped (regs [(0, 0x12), (1, 0x34), (0xF, 0x56)]) 0x801D
    (fun t => getV t 0 == 0x12 && getV t 1 == 0x34 && getV t 0xF == 0x56 && t.pc == 0x202) = true := by decide +kernel

/-- R140: the other codes raise nothing either. -/
theorem test_nop8_others : ([0x8129, 0x812A, 0x812B, 0x812C, 0x812F].all fun w =>
    stepped State.reset w fun t => t.errReason == .none && t.pc == 0x202 && t.events == []) = true := by decide +kernel

/-! ### Family D -/

/-- DRW-4: horizontal wrap, and the 2x2 blocks; DRW-8: the 16x16 sprite, clipped at the bottom. -/
theorem test_drw_wrap : stepped (bytes { regs [(0, 62)] with idx := 0x300 } 0x300 [0xF0]) 0xD011
    (fun t => [62, 63, 0, 1].all (fun c => pix t.mode t.phys c 0) && !pix t.mode t.phys 2 0 && !pix t.mode t.phys 61 0 &&
      physByte t.phys 1 127 == 0xFF && getV t 0xF == 1) = true ∧
    stepped (bytes { extended (regs [(0, 120), (1, 63)]) with idx := 0x300 } 0x300 [0xFF, 0xFF, 0xFF]) 0xD010
      (fun t => [120, 127, 0, 7].all (fun c => physByte t.phys 63 c == 0xFF) && physByte t.phys 63 8 == 0x00 &&
        physByte t.phys 63 119 == 0x00 && physByte t.phys 0 120 == 0x00 && getV t 0xF == 1) = true := by decide +kernel

/-- DRW-10: a lit pixel turned dark gives `VF = 0`. -/
theorem test_drw_collision : stepped (bytes { lit (extended State.reset) [(0, 0)] with idx := 0x300 } 0x300 [0xC0]) 0xD011
    (fun t => physByte t.phys 0 0 == 0x00 && physByte t.phys 0 1 == 0xFF && getV t 0xF == 0) = true := by decide +kernel

/-! ### Family E -/

/-- KEY-1, KEY-4. -/
theorem test_skp : stepped { regs [(2, 5)] with keys := 0x0020 } 0xE29E (fun t => t.pc == 0x204) = true ∧
    stepped { regs [(2, 0x13)] with keys := 0x0008 } 0xE29E (fun t => t.pc == 0x204) = true := by decide +kernel

/-- KEY-5: the held state, not the signal. -/
theorem test_skp_held : stepped { regs [(2, 5)] with kjpValid := true, kjpKey := 5 } 0xE29E (fun t => t.pc == 0x202) = true := by
  decide +kernel

/-- KEY-2, KEY-3. -/
theorem test_sknp : stepped { regs [(2, 5)] with keys := 0x0020 } 0xE2A1 (fun t => t.pc == 0x202) = true ∧
    stepped (regs [(2, 5)]) 0xE2A1 (fun t => t.pc == 0x204) = true := by decide +kernel

/-! ### Family F -/

/-- FAM-1. -/
theorem test_ldVxDt : stepped { State.reset with dt := 0x3C } 0xF607 (fun t => getV t 6 == 0x3C) = true := by decide +kernel

/-- FAM-2: the signal is not consumed. -/
theorem test_ldVxK : stepped { State.reset with kjpValid := true, kjpKey := 0xB } 0xF50A
    (fun t => getV t 5 == 0x0B && t.pc == 0x202 && t.kjpValid) = true := by decide +kernel

/-- FAM-3: the wait goes back to itself. -/
theorem test_ldVxK_waits : stepped State.reset 0xF50A (fun t => t.pc == 0x200 && getV t 5 == 0) = true := by decide +kernel

/-- FAM-4. -/
theorem test_ldDtVx : stepped (regs [(3, 0x05)]) 0xF315 (fun t => t.dt == 0x05) = true := by decide +kernel

/-- FAM-5. -/
theorem test_ldStVx : stepped (regs [(0, 0x10)]) 0xF018 (fun t => t.st == 0x10 && t.sound && t.events == [.soundOn]) = true := by
  decide +kernel

/-- FAM-6: a zero write emits nothing and leaves the sound on. -/
theorem test_ldStVx_zero : stepped { State.reset with st := 0x08, sound := true } 0xF018
    (fun t => t.st == 0x00 && t.sound && t.events == []) = true := by decide +kernel

/-- FAM-8. -/
theorem test_addIVx : stepped { regs [(2, 0x01), (0xF, 0x05)] with idx := 0x0FFF } 0xF21E
    (fun t => t.idx == 0x1000 && getV t 0xF == 0x05) = true := by decide +kernel

/-- FAM-9. -/
theorem test_addIVx_wrap : stepped { regs [(2, 0x01)] with idx := 0xFFFF } 0xF21E (fun t => t.idx == 0x0000) = true := by
  decide +kernel

/-- FAM-10. -/
theorem test_ldFVx : stepped (regs [(0, 0x1A)]) 0xF029 (fun t => t.idx == 0x0032) = true := by decide +kernel

/-- FAM-12. -/
theorem test_ldFVx_extended : stepped (extended (regs [(0, 0x0F)])) 0xF029 (fun t => t.idx == 0x00E6) = true := by decide +kernel

/-- W5. -/
theorem test_ldBVx : stepped { regs [(3, 0x7B)] with idx := 0x300 } 0xF333
    (fun t => memRead t 0x300 == 1 && memRead t 0x301 == 2 && memRead t 0x302 == 3 && t.idx == 0x300) = true := by decide +kernel

/-- FAM-16: the addresses wrap. -/
theorem test_ldBVx_wrap : stepped { regs [(0, 0x09)] with idx := 0xFFE } 0xF033
    (fun t => memRead t 0xFFE == 0 && memRead t 0xFFF == 0 && memRead t 0x000 == 9) = true := by decide +kernel

/-- FAM-17. -/
theorem test_ldMiVx : stepped { regs [(0, 1), (1, 2), (2, 3)] with idx := 0x300 } 0xF155
    (fun t => memRead t 0x300 == 1 && memRead t 0x301 == 2 && memRead t 0x302 == 0 && t.idx == 0x300) = true := by decide +kernel

/-- FAM-18, at its last byte: `VF` is stored. -/
theorem test_ldMiVx_all : stepped { regs [(0, 0x10), (0xF, 0x1F)] with idx := 0x300 } 0xFF55
    (fun t => memRead t 0x300 == 0x10 && memRead t 0x30F == 0x1F && memRead t 0x310 == 0x00) = true := by decide +kernel

/-- FAM-19. -/
theorem test_ldVxMi : stepped (bytes { regs [(3, 9)] with idx := 0x300 } 0x300 [0x00, 0x01, 0x05]) 0xF265
    (fun t => getV t 0 == 0 && getV t 1 == 1 && getV t 2 == 5 && getV t 3 == 9 && t.idx == 0x300) = true := by decide +kernel

/-- FAM-20, at its last byte: `VF` is loaded. -/
theorem test_ldVxMi_all : stepped (bytes { State.reset with idx := 0x300 } 0x30F [0xEE]) 0xFF65
    (fun t => getV t 0xF == 0xEE && getV t 0xE == 0x00) = true := by decide +kernel

/-- FAM-21. -/
theorem test_ldRVx : stepped (setRpl (regs [(0, 0xAA), (1, 0xBB), (2, 0xCC)]) 2 0x11) 0xF175
    (fun t => getRpl t 0 == 0xAA && getRpl t 1 == 0xBB && getRpl t 2 == 0x11) = true := by decide +kernel

/-- FAM-22, at its last byte. -/
theorem test_ldRVx_all : stepped (regs [(7, 8)]) 0xF775 (fun t => getRpl t 7 == 8) = true := by decide +kernel

/-- FAM-23, at its edge. -/
theorem test_ldVxR : stepped (setRpl (setRpl State.reset 3 4) 4 5) 0xF385 (fun t => getV t 3 == 4 && getV t 4 == 0) = true := by
  decide +kernel

/-! ### The step, the errors, the end of a slice, reset and the host -/

/-- DEC-1: an odd fetch across the end of memory, into the font. -/
theorem test_fetch_wrap : after (step (bytes { State.reset with pc := 0xFFF } 0xFFF [0x60]))
    (fun t => getV t 0 == 0xF0 && t.pc == 0x001 && t.ir == 0x60F0 && t.ia == 0xFFF) = true := by decide +kernel

/-- ERR-1, and DEC-8: `RPL` is unchanged. -/
theorem test_unknown : stepped State.reset 0x0123
    (fun t => t.pc == 0x202 && t.errReason == .unknownOpcode && t.errOpcode == 0x0123 && t.errPc == 0x200 &&
      t.events == [.error .unknownOpcode 0x0123 0x200] && t.run == .running) = true ∧
    stepped (regs [(0, 7)]) 0xF875 (fun t => t.errReason == .unknownOpcode && getRpl t 0 == 0) = true := by decide +kernel

/-- ERR-2: under `Halt` the slice ends at once, with no end-of-slice sequence. -/
theorem test_unknown_halt : stepped { halting State.reset with dt := 5 } 0x0123
    (fun t => t.run == .halted && t.pc == 0x202 && t.dt == 5 && t.phase == .between &&
      t.events == [.error .unknownOpcode 0x0123 0x200]) = true := by decide +kernel

/-- ERR-3, its last step. -/
theorem test_call_full : stepped { State.reset with sp := 0x0FDF } 0x2200
    (fun t => t.errReason == .stackOverflow && t.errOpcode == 0x2200 && t.errPc == 0x200 && t.sp == 0x0FDF &&
      memRead t 0xFDF == 0x00 && t.pc == 0x202) = true := by decide +kernel

/-- ERR-4. -/
theorem test_ret_empty : stepped State.reset 0x00EE
    (fun t => t.errReason == .stackUnderflow && t.sp == 0x0FFF && t.pc == 0x202) = true := by decide +kernel

/-- ERR-5, ERR-6. -/
theorem test_host_stop_reset : after (step { State.reset with hostMoves := [.stop] })
      (fun t => t.run == .halted && t.errReason == .hostStop && t.errOpcode == 0 && t.errPc == 0) = true ∧
    after (step { State.reset with run := .halted, pc := 0x300, hostMoves := [.reset] })
      (fun t => t.run == .running && t.pc == 0x200 && t.events == [.soundOff]) = true := by decide +kernel

/-- TMR-1, TMR-3: the last step of a slice, with `sound_off` before `interrupt_tick`. -/
theorem test_end_of_slice : stepped { State.reset with phase := .inSlice, sliceLeft := 1, dt := 1, st := 1, sound := true } 0x1200
    (fun t => t.dt == 0 && t.st == 0 && t.sound == false && t.events == [.soundOff, .interruptTick] && t.phase == .between) = true := by
  decide +kernel

/-- TMR-2, TMR-4. -/
theorem test_end_of_slice_counts : stepped { State.reset with phase := .inSlice, sliceLeft := 1, st := 2, sound := true } 0x1200
    (fun t => t.dt == 0 && t.st == 1 && t.sound && t.events == [.interruptTick]) = true := by decide +kernel

/-- TMR-6, for both values of `KEY_SELECT`. -/
theorem test_key_scan :
    (let t := endOfSlice { State.reset with hookKeys := [some 0x0208] }
     t.kjpValid && t.kjpKey == 9 && t.prevKeys == 0x0208 && t.hookKeys == []) = true ∧
    (let t := endOfSlice { State.reset with cfg := { referenceConfig with keySelect := .lowest }, hookKeys := [some 0x0208] }
     t.kjpValid && t.kjpKey == 3) = true := by decide +kernel

/-- TMR-7, TMR-8, TMR-9. -/
theorem test_key_scan_changes :
    (keyScan { State.reset with keys := 0x0208, prevKeys := 0x0208 }).kjpValid = false ∧
    (keyScan { State.reset with keys := 0x0008, prevKeys := 0x0208 }).kjpKey = 3 ∧
    (keyScan { State.reset with keys := 0x0008, prevKeys := 0x0208 }).kjpValid = true ∧
    (keyScan { State.reset with keys := 0x0000, prevKeys := 0x0008 }).kjpValid = false := by decide +kernel

/-- R75: bytes past the end of memory are dropped, and the fonts are in place. -/
theorem test_load : memRead (doLoad powered [0xAB]) 0x200 = 0xAB ∧ memRead (doLoad powered [0xAB]) 0x000 = 0xF0 ∧
    memRead (doLoad powered [0xAB]) 0x04F = 0x80 ∧ memRead (doLoad powered [0xAB]) 0x201 = 0x00 := by decide +kernel

/-- R284, R280: the host's `Reset` is the way out of power-on, and an instruction before it is a fault. -/
theorem test_powerOn :
    after (step { powered with hostMoves := [.reset] }) (fun t =>
      getV t 0xA == 0x00 && t.idx == 0x0000 && t.pc == 0x200 && t.run == .running && t.wasReset) = true ∧
    runInstr powered = .fault .neverReset := ⟨by decide +kernel, rfl⟩

/-! ### Witnesses: a state and operands that meet all the hypotheses of a statement together -/

/-- Inside a slice with two instructions to go. -/
def inSlice : State := { State.reset with phase := .inSlice, sliceLeft := 2 }

theorem witness_DecodeOfEncode : (Instr.ldRVx 7).wellFormed = true := by decide

theorem witness_EncodeOfDecode : decode 0xF775 = .ok (.ldRVx 7) := by decide

/-- Each of R90's four cases, and words beside them that are none of the four. -/
theorem witness_UnknownOpcodesExactly :
    (0x00BF / 4096 = 0x0 ∧ 0x00BF % 256 ∉ [0xE0, 0xEE, 0xFB, 0xFC, 0xFD, 0xFE, 0xFF] ∧ 0x00BF / 16 % 16 ≠ 0xC) ∧
    (0xE19F / 4096 = 0xE ∧ 0xE19F % 256 ∉ [0x9E, 0xA1]) ∧
    (0xF8FF / 4096 = 0xF ∧ 0xF8FF % 256 ∉ [0x07, 0x0A, 0x15, 0x18, 0x1E, 0x29, 0x33, 0x55, 0x65, 0x75, 0x85]) ∧
    (0xF875 / 4096 = 0xF ∧ 0xF875 % 256 ∈ [0x75, 0x85] ∧ 7 < 0xF875 / 256 % 16) ∧
    decode 0x00C0 = .ok (.scd 0x0 0x0) ∧ decode 0xF775 = .ok (.ldRVx 0x7) := by decide

theorem reset_runs : RunsInstruction State.reset := by
  refine ⟨by decide, rfl, .inr ⟨rfl, .inl rfl⟩⟩

theorem inSlice_runs : RunsInstruction inSlice := by
  refine ⟨by decide, rfl, .inl ⟨rfl, by decide⟩⟩

/-- Inside a slice, between slices with a host that names nothing, and with one that names `Slice`. -/
theorem witness_StepRunsDecodedInstruction :
    (RunsInstruction (inSlice.withFetchWord 16 0x6A55) ∧ Booted (inSlice.withFetchWord 16 0x6A55) ∧
      decode (memWord (inSlice.withFetchWord 16 0x6A55) 0x200) = .ok (.ldVxKk 0xA 0x55)) ∧
    RunsInstruction State.reset ∧ RunsInstruction { State.reset with hostMoves := [.slice, .stop] } := by
  refine ⟨⟨⟨by decide +kernel, by decide +kernel, .inl ⟨by decide +kernel, by decide +kernel⟩⟩, by decide +kernel, by decide +kernel⟩, reset_runs,
    by decide, rfl, .inr ⟨rfl, .inr ⟨_, rfl⟩⟩⟩

theorem witness_StepClosesSlice :
    (inSlice.run = .running ∧ 0 < inSlice.sliceLeft) ∧ (State.reset.run = .running ∧ State.reset.sliceLeft = 0) ∧
      { State.reset with run := .halted }.run ≠ .running := by decide

theorem witness_UnknownWordRaises :
    Booted State.reset ∧
      decode (wordOfBytes (memRead State.reset State.reset.pc.toNat) (memRead State.reset (State.reset.pc.toNat + 1))) =
        .error (.family0 0x00) ∧ State.reset.cfg.errPolicy = .continuing ∧ (halting State.reset).cfg.errPolicy = .halting := by
  decide +kernel

theorem witness_EveryStepCompletes : State.reset.cfg.Legal ∧ Booted State.reset := by decide

theorem witness_StepStopsByName :
    ¬ { referenceConfig with opsPerSlice := 0 }.Legal ∧
    (RunsInstruction { State.reset with wasReset := false } ∧ { State.reset with wasReset := false }.wasReset = false) ∧
    (RunsInstruction { State.reset with loaded := false } ∧ { State.reset with loaded := false }.wasReset = true ∧
      { State.reset with loaded := false }.loaded = false) :=
  ⟨by decide, ⟨⟨by decide, rfl, .inr ⟨rfl, .inl rfl⟩⟩, rfl⟩, ⟨by decide, rfl, .inr ⟨rfl, .inl rfl⟩⟩, rfl, rfl⟩

theorem witness_NothingExecutesUnlessRunning :
    powered.cfg.Legal ∧ powered.run ≠ .running ∧ powered.phase = .between ∧ powered.hostMoves = [] ∧
      { powered with hostMoves := [.slice] }.hostMoves = .slice :: [] := by decide

/-- `RUN` changes by a host's reset, by an error under `Halt`, and by a host's stop. -/
theorem witness_RunStateTransitions :
    (∃ t, step { State.reset with run := .idle, hostMoves := [.reset] } = .next t ∧ (t.run == .running) = true) ∧
    (∃ t, step (halting State.reset) = .next t ∧ (t.run == .halted && t.errReason == .unknownOpcode) = true) ∧
    (∃ t, step { State.reset with hostMoves := [.stop] } = .next t ∧ (t.run == .halted) = true) :=
  ⟨next_of_after (by decide +kernel), next_of_after (by decide +kernel), next_of_after (by decide +kernel)⟩

theorem witness_ReadAfterWrite : MemCanonical State.reset ∧ MemCanonical (memWrite State.reset 0xFFF 0x01) := by decide +kernel

/-- The empty stack, and a stack with one entry to go. -/
theorem witness_CallPushesReturnAddress :
    State.reset.cfg.Legal ∧ MemCanonical State.reset ∧
      State.reset.sp.toNat + 2 * State.reset.cfg.stackDepth ≠ State.reset.cfg.stackTop.toNat ∧
      { State.reset with sp := 0x0FE1 }.sp.toNat + 2 * State.reset.cfg.stackDepth ≠ State.reset.cfg.stackTop.toNat := by decide

theorem witness_CallOnFullStackRaises :
    State.reset.cfg.Legal ∧
      { State.reset with sp := 0x0FDF }.sp.toNat + 2 * State.reset.cfg.stackDepth = State.reset.cfg.stackTop.toNat := by decide

theorem witness_RetPopsReturnAddress : { State.reset with sp := 0x0FFD }.sp ≠ State.reset.cfg.stackTop := by decide

theorem witness_RetOnEmptyStackRaises : State.reset.sp = State.reset.cfg.stackTop := by decide

/-- The empty stack, and a stack with one entry to go. -/
theorem witness_CallThenRetRestores :
    (State.reset.cfg.Legal ∧ MemCanonical State.reset ∧ PcInMemory State.reset ∧ SpInStack State.reset ∧
      State.reset.sp.toNat + 2 * State.reset.cfg.stackDepth ≠ State.reset.cfg.stackTop.toNat) ∧
    (SpInStack { State.reset with sp := 0x0FE1 } ∧
      { State.reset with sp := 0x0FE1 }.sp.toNat + 2 * State.reset.cfg.stackDepth ≠ State.reset.cfg.stackTop.toNat) :=
  ⟨⟨by decide, by decide, by decide, ⟨0, by decide, by decide⟩, by decide⟩, ⟨15, by decide, by decide⟩, by decide⟩

/-- Each skip's condition, met and not met. -/
theorem witness_RegisterSkips :
    getV (regs [(4, 0x22)]) 4 = 0x22 ∧ getV (regs [(4, 0x23)]) 4 ≠ 0x22 ∧
      getV (regs [(5, 0x80), (6, 0x80)]) 5 = getV (regs [(5, 0x80), (6, 0x80)]) 6 ∧
      getV (regs [(5, 0x80), (6, 0x81)]) 5 ≠ getV (regs [(5, 0x80), (6, 0x81)]) 6 := by decide +kernel

theorem witness_KeySkips :
    { regs [(2, 0x1F)] with keys := 0x8000 }.keys.getLsbD ((getV (regs [(2, 0x1F)]) 2).toNat % 16) = true ∧
      State.reset.keys.getLsbD ((getV (regs [(2, 0x1F)]) 2).toNat % 16) = false := by decide +kernel

/-- Both sides of each flag: a sum of 256 and of 255, equal operands, and the flag register as the destination. -/
theorem witness_FlagClauses :
    256 ≤ (getV (regs [(0, 0xFF), (1, 0x01)]) 0).toNat + (getV (regs [(0, 0xFF), (1, 0x01)]) 1).toNat ∧
    ¬ 256 ≤ (getV (regs [(0, 0xFE), (1, 0x01)]) 0).toNat + (getV (regs [(0, 0xFE), (1, 0x01)]) 1).toNat ∧
    (getV (regs [(0, 0x07), (1, 0x07)]) 1).toNat ≤ (getV (regs [(0, 0x07), (1, 0x07)]) 0).toNat ∧ (0x0#4 ≠ 0xF#4) := by
  decide +kernel

theorem witness_Nop8ChangesNothing :
    (0x8128#16).toNat / 4096 = 8 ∧ (0x8128#16).toNat % 16 ∈ [0x8, 0x9, 0xA, 0xB, 0xC, 0xD, 0xF] ∧
      (0x8FFF#16).toNat / 4096 = 8 ∧ (0x8FFF#16).toNat % 16 ∈ [0x8, 0x9, 0xA, 0xB, 0xC, 0xD, 0xF] := by decide

theorem witness_GlyphAddress : State.reset.mode = .standard ∧ (extended State.reset).mode = .extended := by decide

/-- Both clauses, the second in the state a fetch at the last even address leaves. -/
theorem witness_KeyWait :
    { State.reset with kjpValid := true }.kjpValid = true ∧ State.reset.kjpValid = false ∧
      (fetch { State.reset with pc := 0xFFE }).ia.toNat < 4096 ∧
      (fetch { State.reset with pc := 0xFFE }).pc.toNat = ((fetch { State.reset with pc := 0xFFE }).ia.toNat + 2) % 4096 := by
  decide +kernel

theorem witness_TimerWrites : getV (regs [(0, 0x01)]) 0 ≠ 0 ∧ getV State.reset 0 = 0 := by decide +kernel

/-- `I` at the end of memory, where the stored bytes wrap. -/
theorem witness_BcdStore : MemCanonical { State.reset with idx := 0xFFFF } := by decide

theorem witness_RegisterBlockStore : MemCanonical { State.reset with idx := 0x0FF8 } := by decide

theorem witness_FlagStorageSaveAndRestore : (7#4).toNat ≤ 7 ∧ (0#4).toNat ≤ 7 := by decide

theorem witness_IllFormedFlagStorageRaises : 7 < (8#4).toNat := by decide

/-- The cells that `SCD`, `SCR` and `SCL` take from inside the grid and from outside it, at the edges of both grids. -/
theorem witness_Scrolls :
    ((2#4).toNat ≤ cellRow .standard 4 ∧ ¬ (2#4).toNat ≤ cellRow .standard 3 ∧ (15#4).toNat ≤ cellRow .extended 15) ∧
    (4 ≤ cellCol .standard 8 ∧ ¬ 4 ≤ cellCol .standard 7 ∧ 4 ≤ cellCol .extended 4) ∧
    (cellCol .standard 119 + 4 < gridCols .standard ∧ ¬ cellCol .standard 120 + 4 < gridCols .standard ∧
      cellCol .extended 123 + 4 < gridCols .extended) ∧
    pixelLit .standard (setCell darkPhys 62 126 true) 63 31 = true ∧ pixelLit .standard (setCell darkPhys 63 127 true) 63 31 = false := by
  decide +kernel

/-- DRW-10's state: column 0 is toggled and lit, column 1 is toggled and dark, column 2 is not toggled. -/
def drawn : State := bytes { lit (extended State.reset) [(0, 0)] with idx := 0x300 } 0x300 [0xC0]

/-- The last bit of a 16 x 16 sprite, that of `n = 0` in extended mode, which draws no row in standard mode. -/
def wide : State := bytes { State.reset with idx := 0x300 } 0x300 (List.replicate 31 0x00 ++ [0x01])

theorem witness_DrawTogglesAndReports :
    Toggles drawn 0 1 1 0 0 ∧ Toggles drawn 0 1 1 1 0 ∧ ¬ Toggles drawn 0 1 1 2 0 ∧ Collides drawn 0 1 1 ∧
      ¬ Collides State.reset 0 1 5 ∧ Toggles (extended wide) 0 1 0 15 15 ∧ ¬ Toggles (extended wide) 0 1 0 14 15 ∧
      ¬ Toggles wide 0 1 0 15 15 := by
  refine ⟨by unfold Toggles; decide +kernel, by unfold Toggles; decide +kernel, by unfold Toggles; decide +kernel,
    ⟨0, 0, by decide, by decide, by unfold Toggles; decide +kernel, by decide +kernel⟩, ?_, by unfold Toggles; decide +kernel,
    by unfold Toggles; decide +kernel, by unfold Toggles; decide +kernel⟩
  rintro ⟨c, r, -, -, -, h⟩
  rw [pixelLit_eq, show pix State.reset.mode State.reset.phys c r = false from pix_darkPhys .standard c r] at h
  cases h

theorem reset_blocksEqual : BlocksEqual State.reset := by
  intro _ r c _ _
  have hd : ∀ r c, physByte State.reset.phys r c = 0 := physByte_darkPhys
  rw [hd, hd]

theorem witness_DrawTwiceRestores : (0#4 ≠ 0xF#4) ∧ (1#4 ≠ 0xF#4) ∧ BlocksEqual State.reset :=
  ⟨by decide, by decide, reset_blocksEqual⟩

/-- The host's `Reset` and `Load`, from power-on and from a running core. -/
theorem witness_HostResetAndLoad :
    powered.cfg.Legal ∧ powered.phase = .between ∧ { powered with hostMoves := [.reset] }.hostMoves = .reset :: [] ∧
      { powered with hostMoves := [.load [0x12]] }.hostMoves = .load [0x12] :: [] ∧ State.reset.cfg.Legal ∧ State.reset.phase = .between ∧
      State.reset.run = .running := by decide

/-- A running core and one that is not. -/
theorem witness_HostStopAndKeys :
    { State.reset with hostMoves := [.stop] }.cfg.Legal ∧ { State.reset with hostMoves := [.stop] }.phase = .between ∧
      { State.reset with hostMoves := [.stop] }.hostMoves = .stop :: [] ∧ State.reset.run = .running ∧
      powered.run ≠ .running ∧ { State.reset with hostMoves := [.writeKeys 0x8001] }.hostMoves = .writeKeys 0x8001 :: [] := by
  decide

/-- A signal raised and not raised, for both values of `KEY_SELECT`, with keys 0 and 15 held. -/
theorem witness_KeyScanResolves :
    (keyScan { State.reset with keys := 0x8001 }).kjpValid = true ∧ (keyScan State.reset).kjpValid = false ∧
      State.reset.cfg.keySelect = .highest ∧ { referenceConfig with keySelect := .lowest }.keySelect = .lowest ∧
      (0x8001#16).getLsbD 15 = true ∧ (0x8001#16).getLsbD 0 = true := by decide +kernel

theorem witness_SliceIsItsSteps :
    State.reset.cfg.Legal ∧ Booted State.reset ∧ State.reset.phase = .between ∧ State.reset.hostMoves = [] := by decide

/-- `EXIT` with budget left, as the last instruction of a slice, and as its first. -/
theorem witness_ExitKeepsSliceBudget :
    (RunsInstruction (inSlice.withFetchWord 16 0x00FD) ∧ Booted (inSlice.withFetchWord 16 0x00FD) ∧
      1 < (entryState (inSlice.withFetchWord 16 0x00FD)).sliceLeft ∧
      decode (entryState (inSlice.withFetchWord 16 0x00FD)).ir = .ok (.exit 0x0)) ∧
    (RunsInstruction { inSlice with sliceLeft := 1 } ∧ (entryState { inSlice with sliceLeft := 1 }).sliceLeft = 1) ∧
    RunsInstruction (State.reset.withFetchWord 16 0x00FD) ∧ Booted (State.reset.withFetchWord 16 0x00FD) ∧
      (State.reset.withFetchWord 16 0x00FD).phase = .between ∧ 1 < (entryState (State.reset.withFetchWord 16 0x00FD)).sliceLeft ∧
      decode (entryState (State.reset.withFetchWord 16 0x00FD)).ir = .ok (.exit 0x0) :=
  ⟨⟨⟨by decide +kernel, by decide +kernel, .inl ⟨by decide +kernel, by decide +kernel⟩⟩, by decide +kernel, by decide +kernel,
      by decide +kernel⟩, ⟨⟨by decide, rfl, .inl ⟨rfl, by decide⟩⟩, rfl⟩,
    ⟨by decide +kernel, by decide +kernel, .inr ⟨by decide +kernel, .inl (by decide +kernel)⟩⟩, by decide +kernel, by decide +kernel,
    by decide +kernel, by decide +kernel⟩

theorem witness_HaltEndsSliceAtOnce :
    RunsInstruction (halting inSlice) ∧ Booted (halting inSlice) ∧ (halting inSlice).cfg.errPolicy = .halting ∧
      decode (entryState (halting inSlice)).ir = .error (.family0 0x00) :=
  ⟨⟨by decide, rfl, .inl ⟨rfl, by decide⟩⟩, ⟨rfl, rfl⟩, rfl, by decide +kernel⟩

/-- Instructions of each writer's rule, and one that is no writer. -/
theorem witness_Writers :
    (∃ t, exec (.ldINnn 0x300) State.reset = .next t) ∧ (∃ t, exec (.call 0x300) State.reset = .next t) ∧
      (∃ t, exec (.ldRVx 7) State.reset = .next t) ∧ (∃ t, exec (.high 0) State.reset = .next t) ∧
      (∃ t, exec (.addVxVy 0 1) State.reset = .next t) ∧ (∃ t, exec (.jp 0x300) State.reset = .next t) ∧
      (∃ t, exec (.ldVxMi 0xE) State.reset = .next t) ∧ (0xE#4 ≠ 0xF#4) :=
  ⟨exec_completes _ _, exec_completes _ _, exec_completes _ _, exec_completes _ _, exec_completes _ _, exec_completes _ _,
    exec_completes _ _, by decide⟩

/-- The invariants' premises hold at reset, and a step from there completes; the premises of the status invariants are met with the sound
on, a signal raised and a slice under way too. -/
theorem witness_StepKeeps :
    MemCanonical State.reset ∧ PcInMemory State.reset ∧ SpInStack State.reset ∧ BlocksEqual State.reset ∧ SliceCoherent inSlice ∧
      KeySignalHeld { State.reset with kjpValid := true, kjpKey := 9, prevKeys := 0x0200 } ∧
      SoundWhileCounting { State.reset with st := 5, sound := true } ∧ ErrCoherent State.reset ∧ ResetBeforeRunning powered ∧
      ResetBeforeRunning inSlice ∧
      (∃ t, step State.reset = .next t ∧ (t.pc == 0x202) = true) :=
  ⟨by decide, by decide, ⟨0, by decide, by decide⟩, reset_blocksEqual, by decide, by decide, fun _ => rfl, fun _ => ⟨rfl, rfl⟩, by decide, by decide,
    next_of_after (by decide +kernel)⟩

end Sys2Proof.Tests
end

section
/-! PROOFS. The family of the state (spec/10_state.md): what each instruction may write, what every step keeps, the display operations,
load and reset. -/

namespace Sys2Proof.Proofs

open Sys2Proof.Machine Sys2Proof.Safety

/-! ### What each instruction may write -/

/-- The parts of the state that an instruction may write, on any of its paths. -/
def writes : Instr → List Part
  | .cls _ | .scd _ _ | .scr _ | .scl _ => [.phys]
  | .low _ | .high _ => [.phys, .mode]
  | .exit _ =>
    [.v, .idx, .pc, .sp, .dt, .st, .mode, .phys, .keys, .prevKeys, .kjp, .err, .sound, .run, .events, .wasReset]
  | .ret _ => [.sp, .pc, .err, .events, .run]
  | .call _ => [.mem, .sp, .pc, .err, .events, .run]
  | .jp _ | .jpV0 _ => [.pc]
  | .seVxKk _ _ | .sneVxKk _ _ | .seVxVy _ _ _ | .sneVxVy _ _ _ | .skp _ | .sknp _ => [.pc]
  | .ldVxKk _ _ | .addVxKk _ _ | .ldVxDt _ | .ldVxMi _ => [.v]
  | .ldVxVy _ _ | .orVxVy _ _ | .andVxVy _ _ | .xorVxVy _ _ => [.v]
  | .addVxVy _ _ | .sub _ _ | .shr _ _ | .subn _ _ | .shl _ _ => [.v]
  | .nop8x8 _ | .nop8x9 _ | .nop8xA _ | .nop8xB _ | .nop8xC _ | .nop8xD _ | .nop8xF _ => []
  | .ldINnn _ | .addIVx _ | .ldFVx _ => [.idx]
  | .rnd _ _ => [.v, .draws]
  | .drw _ _ _ => [.phys, .v]
  | .ldVxK _ => [.v, .pc]
  | .ldDtVx _ => [.dt]
  | .ldStVx _ => [.st, .sound, .events]
  | .ldBVx _ | .ldMiVx _ => [.mem]
  | .ldRVx _ => [.rpl, .err, .events, .run]
  | .ldVxR _ => [.v, .err, .events, .run]

/-- A block load writes registers and nothing else, wherever it reads from (R158, R160). -/
theorem sameBut_blockLoad (f : Nat → Byte) (l : List Nat) (s : State) :
    SameBut [.v] s (l.foldl (fun t i => setV t (regOf i) (f i)) s) :=
  SameBut.foldl (fun t i => sameBut_setV t (regOf i) (f i)) l s

/-- A block save writes flag storage and nothing else (R159). -/
theorem sameBut_blockSave (f : Nat → Byte) (l : List Nat) (s : State) :
    SameBut [.rpl] s (l.foldl (fun t i => setRpl t i (f i)) s) :=
  SameBut.foldl (fun t i => sameBut_setRpl t i (f i)) l s

/-- No instruction writes anything outside its list. -/
theorem exec_writes {i : Instr} {s t : State} (h : exec i s = .next t) : SameBut (writes i) s t := by
  have hmono : ∀ {ps : List Part} {u : State}, SameBut ps s u → decide (∀ p ∈ ps, p ∈ writes i) = true →
      SameBut (writes i) s u := fun hf hp => hf.mono (of_decide_eq_true hp)
  cases i
  case ret =>
    simp only [exec, execRet] at h; split at h <;> cases h
    · exact hmono (sameBut_raiseError s _) rfl
    · apply SameBut.of_fields <;> simp [writes]
  case call =>
    simp only [exec, execCall] at h; split at h <;> cases h
    · exact hmono (sameBut_raiseError s _) rfl
    · apply SameBut.of_fields <;> simp [writes]
  case ldVxK =>
    simp only [exec, execLdVxK] at h; split at h <;> cases h
    · exact hmono (sameBut_setV s _ _) rfl
    · exact hmono (sameBut_setPc s _) rfl
  case ldStVx =>
    simp only [exec, execLdStVx] at h; split at h <;> cases h <;> apply SameBut.of_fields <;> simp [writes]
  case ldRVx =>
    simp only [exec, execLdRVx] at h; split at h <;> cases h
    · exact hmono (sameBut_blockSave _ _ s) rfl
    · exact hmono (sameBut_raiseError s _) rfl
  case ldVxR =>
    simp only [exec, execLdVxR] at h; split at h <;> cases h
    · exact hmono (sameBut_blockLoad _ _ s) rfl
    · exact hmono (sameBut_raiseError s _) rfl
  case ldVxMi => cases h; exact sameBut_blockLoad _ _ s
  case exit => cases h; exact sameBut_doReset s
  case scd | scr | scl => cases h; exact sameBut_scroll s _
  case seVxKk | sneVxKk | seVxVy | sneVxVy | skp | sknp => cases h; exact sameBut_skipIf _ s
  all_goals cases h; apply SameBut.of_fields <;> simp [writes]

/-- A part outside the list of what an instruction may write; the list is searched by evaluation. -/
theorem exec_unwritten {i : Instr} {s t : State} (h : exec i s = .next t) (p : Part)
    (hp : decide (p ∈ writes i) = false) : Part.Same s t p :=
  exec_writes h p (of_decide_eq_false hp)

/-! ### What the driver may write -/

theorem sameBut_fetch (s : State) : SameBut [.pc, .latches] s (fetch s) := by
  apply SameBut.of_fields <;> simp

theorem sameBut_endOfSlice (s : State) :
    SameBut [.dt, .st, .sound, .events, .keys, .prevKeys, .kjp, .hookKeys] s (endOfSlice s) := by
  apply SameBut.of_fields <;> simp

theorem sameBut_doStop (s : State) : SameBut [.run, .err] s (doStop s) := by
  unfold doStop; split
  · apply SameBut.of_fields <;> simp
  · exact SameBut.refl _ _

theorem sameBut_doLoad (s : State) (image : List Byte) : SameBut [.mem, .loaded] s (doLoad s image) := by
  apply SameBut.of_fields <;> simp [doLoad]

/-- What only the driver keeps books of: the record of events, the slice's budget and position, and the host's coming moves. -/
theorem sameBut_books (s : State) (e : List Event) (n : Nat) (p : Phase) (m : List HostMove) :
    SameBut [.events, .sliceLeft, .phase, .hostMoves] s
      { s with events := e, sliceLeft := n, phase := p, hostMoves := m } := by
  apply SameBut.of_fields <;> simp

/-- After an instruction only the phase is written, after the end-of-slice sequence where the slice's budget is spent (R243). -/
theorem closeStep_cases (s : State) :
    (∃ p, closeStep s = { s with phase := p }) ∨ closeStep s = { endOfSlice s with phase := .between } := by
  unfold closeStep
  split
  · split
    · exact .inr rfl
    · exact .inl ⟨_, rfl⟩
  · exact .inl ⟨_, rfl⟩

/-! ### Invariants that read a few parts of the state -/

/-- `P` depends on no part of the state but those of `ps`. -/
def Reads (ps : List Part) (P : State → Prop) : Prop :=
  ∀ {s t : State}, (∀ p ∈ ps, Part.Same s t p) → P s → P t

/-- What writes none of the parts that `P` reads keeps `P`; the lists are compared by evaluation. -/
theorem Reads.keep {ps written : List Part} {P : State → Prop} (hr : Reads ps P) {s t : State} (hf : SameBut written s t)
    (hd : decide (∀ p ∈ ps, p ∉ written) = true) : P s → P t :=
  hr fun p hp => hf p (of_decide_eq_true hd p hp)

/-- An induction step for the whole machine: what is kept by the fetch, by every instruction, by an unknown word's error, by the end of a
slice and by the host's `Stop` is kept by every step, where it does not read the driver's own books. -/
theorem step_keeps {ps : List Part} {P : State → Prop} (hr : Reads ps P)
    (hd : decide (∀ p ∈ ps, p ∉ [Part.events, .sliceLeft, .phase, .hostMoves, .mem, .loaded, .keys]) = true)
    (hfetch : ∀ {s}, P s → P (fetch s))
    (hexec : ∀ {i s t}, s.cfg.Legal → exec i s = .next t → P s → P t)
    (hraise : ∀ {s}, P s → P (raiseError s .unknownOpcode))
    (hend : ∀ {s}, P s → P (endOfSlice s)) (hstop : ∀ {s}, P s → P (doStop s))
    {s t : State} (h : step s = .next t) (hs : P s) : P t := by
  have hbook : ∀ {written : List Part} {u v : State}, SameBut written u v →
      (∀ p ∈ written, p ∈ [Part.events, .sliceLeft, .phase, .hostMoves, .mem, .loaded, .keys]) → P u → P v :=
    fun hf hw => hr.keep (hf.mono hw) hd
  have hbooks : ∀ {u : State} (e n p m), P u → P { u with events := e, sliceLeft := n, phase := p, hostMoves := m } :=
    fun e n p m => hbook (sameBut_books _ e n p m) (by decide)
  have hclose : ∀ {u}, P u → P (closeStep u) := by
    intro u hu
    obtain ⟨p, e⟩ | e := closeStep_cases u <;> rw [e]
    · exact hbooks u.events u.sliceLeft p u.hostMoves hu
    · exact hbooks (endOfSlice u).events (endOfSlice u).sliceLeft .between (endOfSlice u).hostMoves (hend hu)
  obtain ⟨hl, ⟨-, u, hu, rfl⟩ | ⟨-, -, rfl⟩ | ⟨-, -, rfl⟩ | ⟨m, rest, -, -, -, rfl⟩⟩ := step_cases h
  · have hf : P (fetch (atFetch s)) := hfetch (hbooks _ _ s.phase _ hs)
    have hPu : P u := by
      obtain ⟨-, ⟨i, -, he⟩ | ⟨e, -, rfl⟩⟩ := runInstr_cases hu
      · exact hexec (s := fetch (atFetch s)) hl he hf
      · exact hraise hf
    exact hclose (hbooks u.events _ u.phase u.hostMoves hPu)
  · exact hclose (hbooks [] s.sliceLeft s.phase s.hostMoves hs)
  · exact hbooks [] s.sliceLeft s.phase _ hs
  · have hm : P { s with events := [], hostMoves := rest } := hbooks [] s.sliceLeft s.phase rest hs
    cases m with
    | load image => exact hbook (sameBut_doLoad _ image) (by decide) hm
    | reset => exact hexec (i := .exit 0) (s := { s with events := [], hostMoves := rest }) hl rfl hm
    | stop => exact hstop hm
    | slice => exact hm
    | writeKeys k => exact hbook (written := [.keys]) (by apply SameBut.of_fields <;> simp [hostMove]) (by decide) hm

/-! ### `PC` (R23) -/

theorem reads_pcInMemory : Reads [.pc] PcInMemory := by
  intro s t h hs
  have hpc : t.pc = s.pc := h .pc (by decide)
  rwa [PcInMemory, hpc]

theorem pcInMemory_skipIf {s : State} (b : Bool) (hs : PcInMemory s) : PcInMemory (skipIf b s) := by
  cases b
  · exact hs
  · exact pcInMemory_setPc _ _

theorem exec_keeps_pcInMemory {i : Instr} {s t : State} (h : exec i s = .next t) (hs : PcInMemory s) : PcInMemory t := by
  cases i
  case exit => cases h; rw [PcInMemory, doReset_pc]; decide
  case ret | call | ldVxK =>
    simp only [exec, execRet, execCall, execLdVxK] at h; split at h <;> cases h
    · exact hs
    · exact pcInMemory_setPc _ _
  case jp | jpV0 => cases h; exact pcInMemory_setPc _ _
  case seVxKk | sneVxKk | seVxVy | sneVxVy | skp | sknp => cases h; exact pcInMemory_skipIf _ hs
  all_goals exact reads_pcInMemory.keep (exec_writes h) rfl hs

/-- Settles O56: every write of `PC` is reduced mod 4096, in the fetch and in the instructions. -/
theorem stepKeepsPcInMemory : Obligations.StepKeepsPcInMemory := fun _ _ hs h =>
  step_keeps reads_pcInMemory rfl (fun _ => pcInMemory_setPc _ _) (fun _ => exec_keeps_pcInMemory)
    (reads_pcInMemory.keep (sameBut_raiseError _ _) rfl) (reads_pcInMemory.keep (sameBut_endOfSlice _) rfl)
    (reads_pcInMemory.keep (sameBut_doStop _) rfl) h hs

/-! ### `SP` (R29) -/

theorem reads_spInStack : Reads [.sp, .cfg] SpInStack := by
  intro s t h hs
  have hsp : t.sp = s.sp := h .sp (by decide)
  have hcfg : t.cfg = s.cfg := h .cfg (by decide)
  rwa [SpInStack, hsp, hcfg]

/-- A push onto a stack that is not full takes one entry more (R28, R102). -/
theorem spInStack_push {s : State} (w : Word) (hl : s.cfg.Legal) (hfull : s.sp ≠ stackFull s.cfg) (hs : SpInStack s) :
    SpInStack (push s w) := by
  rw [ne_eq, sp_eq_stackFull hl] at hfull
  obtain ⟨hroom, hbase, -⟩ := hl
  obtain ⟨k, hk, hsp⟩ := hs
  refine ⟨k + 1, ?_, ?_⟩ <;> simp only [push_cfg, push_sp]
  · have hne : k ≠ s.cfg.stackDepth := fun e => hfull (e ▸ hsp)
    omega
  · rw [BitVec.toNat_sub, show (2 : Word).toNat = 2 from rfl]
    omega

/-- A pop from a stack that is not empty takes one entry less (R28, R181). -/
theorem spInStack_pop {s t : State} (hl : s.cfg.Legal) (hempty : s.sp ≠ s.cfg.stackTop) (hs : SpInStack s)
    (hsp : t.sp = s.sp + 2) (hcfg : t.cfg = s.cfg) : SpInStack t := by
  obtain ⟨hroom, -, -⟩ := hl
  obtain ⟨k, hk, htop⟩ := hs
  have hk0 : k ≠ 0 := by rintro rfl; exact hempty (BitVec.eq_of_toNat_eq htop)
  refine ⟨k - 1, ?_, ?_⟩
  · rw [hcfg]; omega
  · rw [hsp, hcfg, BitVec.toNat_add, show (2 : Word).toNat = 2 from rfl]
    omega

theorem exec_keeps_spInStack {i : Instr} {s t : State} (hl : s.cfg.Legal) (h : exec i s = .next t) (hs : SpInStack s) :
    SpInStack t := by
  cases i
  case exit => cases h; exact ⟨0, Nat.zero_le _, rfl⟩
  case call =>
    simp only [exec, execCall] at h; split at h <;> cases h
    · exact hs
    · exact spInStack_push s.pc hl ‹_› hs
  case ret =>
    simp only [exec, execRet] at h; split at h <;> cases h
    · exact hs
    · exact spInStack_pop hl ‹_› hs rfl rfl
  all_goals exact reads_spInStack.keep (exec_writes h) rfl hs

/-- Settles O57: a `CALL` pushes only where the stack is not full, a `RET` pops only where it is not empty, and a reset empties it. -/
theorem stepKeepsSpInStack : Obligations.StepKeepsSpInStack := fun _ _ hs h =>
  step_keeps reads_spInStack rfl (reads_spInStack.keep (sameBut_fetch _) rfl) exec_keeps_spInStack
    (reads_spInStack.keep (sameBut_raiseError _ _) rfl) (reads_spInStack.keep (sameBut_endOfSlice _) rfl)
    (reads_spInStack.keep (sameBut_doStop _) rfl) h hs

end Sys2Proof.Proofs
end

section
/-! PROOFS. The display operations, and the 2x2 blocks of standard mode (spec/10_state.md R40-R42). -/

namespace Sys2Proof.Proofs

open Sys2Proof.Machine Sys2Proof.Safety

/-! ### The scrolls (R182-R184, R188) -/

/-- Settles O39: a scroll rewrites the whole grid, and the pixel `n` rows above is there from row `n` on. -/
theorem scrollDown : Obligations.ScrollDown := by
  intro ign n s
  refine ⟨_, rfl, fun r c hr hc => ?_, sameBut_scroll s _⟩
  rw [physByte_scroll s _ r c hr hc, scrolledDown]
  by_cases h : n.toNat ≤ cellRow s.mode r <;> simp [h]

theorem scrollRight_cells (s : State) (r c : Nat) (hr : r < 64) (hc : c < 128) :
    physByte (scroll s scrolledRight).phys r c =
      if 4 ≤ cellCol s.mode c ∧ pixelLit s.mode s.phys (cellCol s.mode c - 4) (cellRow s.mode r) = true then 0xFF
      else 0x00 := by
  rw [physByte_scroll s _ r c hr hc, scrolledRight]
  by_cases h : 4 ≤ cellCol s.mode c <;> simp [h]

theorem scrollLeft_cells (s : State) (r c : Nat) (hr : r < 64) (hc : c < 128) :
    physByte (scroll s (scrolledLeft (gridW s.mode))).phys r c =
      if cellCol s.mode c + 4 < gridCols s.mode ∧
          pixelLit s.mode s.phys (cellCol s.mode c + 4) (cellRow s.mode r) = true then 0xFF
      else 0x00 := by
  rw [physByte_scroll s _ r c hr hc, scrolledLeft, gridCols_eq]
  by_cases h : cellCol s.mode c + 4 < gridW s.mode <;> simp [h]

/-- Settles O40: `SCR` reads 4 columns to the left and `SCL` 4 to the right, each inside the grid alone. -/
theorem scrollSideways : Obligations.ScrollSideways := fun _ s =>
  ⟨⟨_, rfl, scrollRight_cells s, sameBut_scroll s _⟩, ⟨_, rfl, scrollLeft_cells s, sameBut_scroll s _⟩⟩

/-! ### The draw (R200-R203) -/

/-- What the loops of `DRW Vx, Vy, n` leave: the buffer, and whether a lit pixel was toggled. -/
def drawn (s : State) (x y n : Nibble) : Drawing :=
  drawSprite s (geometry s.mode n) ((getV s x).toNat % gridW s.mode) ((getV s y).toNat % gridH s.mode)

/-- `DRW` installs the buffer and writes the flag last. -/
theorem exec_drw (x y n : Nibble) (s : State) :
    exec (.drw x y n) s = .next (setV { s with phys := (drawn s x y n).phys } 0xF (noCollisionFlag (drawn s x y n).hit)) :=
  rfl

theorem physByte_drawn_of_toggles {s : State} {x y n : Nibble} {r c : Nat} (hr : r < 64) (hc : c < 128)
    (h : Toggles s x y n (cellCol s.mode c) (cellRow s.mode r)) :
    physByte (drawn s x y n).phys r c =
      if pixelLit s.mode s.phys (cellCol s.mode c) (cellRow s.mode r) then 0x00 else 0xFF := by
  have hcell : physLit (drawn s x y n).phys r c = !pix s.mode s.phys (cellCol s.mode c) (cellRow s.mode r) :=
    (physLit_drawSprite s x y n r c hr hc).1 h
  rw [physByte, hcell, pixelLit_eq]
  cases pix s.mode s.phys (cellCol s.mode c) (cellRow s.mode r) <;> rfl

theorem physByte_drawn_of_not_toggles {s : State} {x y n : Nibble} {r c : Nat} (hr : r < 64) (hc : c < 128)
    (h : ¬ Toggles s x y n (cellCol s.mode c) (cellRow s.mode r)) :
    physByte (drawn s x y n).phys r c = physByte s.phys r c := by
  have hcell : physLit (drawn s x y n).phys r c = physLit s.phys r c := (physLit_drawSprite s x y n r c hr hc).2 h
  rw [physByte, hcell, physByte]

/-- The flag is 0 exactly where a lit pixel went dark (R203). -/
theorem noCollisionFlag_drawn (s : State) (x y n : Nibble) :
    (Collides s x y n → noCollisionFlag (drawn s x y n).hit = 0) ∧
    (¬ Collides s x y n → noCollisionFlag (drawn s x y n).hit = 1) := by
  have hhit : (drawn s x y n).hit = true ↔ Collides s x y n := hit_drawSprite s x y n
  rw [← hhit]
  cases (drawn s x y n).hit <;> simp [noCollisionFlag, flagByte]

/-- Settles O41: the cells are those of the draw's loops, and the flag is written to `VF` alone. -/
theorem drawTogglesAndReports : Obligations.DrawTogglesAndReports := by
  intro x y n s
  obtain ⟨hlit, hdark⟩ := noCollisionFlag_drawn s x y n
  refine ⟨_, exec_drw x y n s, fun r c hr hc => ⟨physByte_drawn_of_toggles hr hc, physByte_drawn_of_not_toggles hr hc⟩,
    fun h => ?_, fun h => ?_, fun j hj => ?_, exec_writes (i := .drw x y n) rfl⟩
  · rw [getV_setV, if_pos rfl, hlit h]
  · rw [getV_setV, if_pos rfl, hdark h]
  · exact (getV_setV ..).trans (if_neg hj)

/-! ### The 2x2 blocks of standard mode (R41) -/

theorem reads_blocksEqual : Reads [.mode, .phys] BlocksEqual := by
  intro s t h hs hm r c hr hc
  have hmode : t.mode = s.mode := h .mode (by decide)
  have hphys : ∀ r c, physByte t.phys r c = physByte s.phys r c := h .phys (by decide)
  rw [hphys, hphys]
  exact hs (hmode ▸ hm) r c hr hc

theorem blocksEqual_of_dark {s : State} (h : s.phys = darkPhys) : BlocksEqual s := by
  intro _ r c _ _
  rw [h, physByte_darkPhys, physByte_darkPhys]

/-- The origin of a cell's block is a cell of the same pixel. -/
theorem cellCol_block {m : Mode} (hm : m = .standard) (c : Nat) : cellCol m (c / 2 * 2) = cellCol m c := by
  simp only [hm, cellCol]; omega

theorem cellRow_block {m : Mode} (hm : m = .standard) (r : Nat) : cellRow m (r / 2 * 2) = cellRow m r := by
  simp only [hm, cellRow]; omega

/-- A scroll gives a cell the byte of its pixel, which the four cells of a block share. -/
theorem blocksEqual_scroll (s : State) (new : (Nat → Nat → Bool) → Nat → Nat → Bool) : BlocksEqual (scroll s new) := by
  intro hm r c hr hc
  have hm : s.mode = .standard := hm
  rw [physByte_scroll s new r c hr hc, physByte_scroll s new _ _ (by omega) (by omega), cellCol_block hm, cellRow_block hm]

/-- A draw toggles the four cells of a block together, each to the opposite of the block's pixel, or none of them. -/
theorem blocksEqual_drawn {s t : State} {x y n : Nibble} (hphys : t.phys = (drawn s x y n).phys) (hmode : t.mode = s.mode)
    (hs : BlocksEqual s) : BlocksEqual t := by
  intro hm r c hr hc
  have hm : s.mode = .standard := hmode ▸ hm
  have hcol : cellCol s.mode (c / 2 * 2) = cellCol s.mode c := cellCol_block hm c
  have hrow : cellRow s.mode (r / 2 * 2) = cellRow s.mode r := cellRow_block hm r
  have hr' : r / 2 * 2 < 64 := by omega
  have hc' : c / 2 * 2 < 128 := by omega
  rw [hphys]
  by_cases h : Toggles s x y n (cellCol s.mode c) (cellRow s.mode r)
  · rw [physByte_drawn_of_toggles hr hc h, physByte_drawn_of_toggles hr' hc' (by rwa [hcol, hrow]), hcol, hrow]
  · rw [physByte_drawn_of_not_toggles hr hc h, physByte_drawn_of_not_toggles hr' hc' (by rwa [hcol, hrow])]
    exact hs hm r c hr hc

theorem exec_keeps_blocksEqual {i : Instr} {s t : State} (h : exec i s = .next t) (hs : BlocksEqual s) :
    BlocksEqual t := by
  cases i
  case cls | low | high | exit => cases h; exact blocksEqual_of_dark rfl
  case scd | scr | scl => cases h; exact blocksEqual_scroll s _
  case drw x y n => cases h; exact blocksEqual_drawn (x := x) (y := y) (n := n) rfl rfl hs
  all_goals exact reads_blocksEqual.keep (exec_writes h) rfl hs

/-- Settles O58: what writes the display writes whole blocks in standard mode, and a switch of the mode clears it. -/
theorem stepKeepsBlocksEqual : Obligations.StepKeepsBlocksEqual := fun _ _ hs h =>
  step_keeps reads_blocksEqual rfl (reads_blocksEqual.keep (sameBut_fetch _) rfl) (fun _ => exec_keeps_blocksEqual)
    (reads_blocksEqual.keep (sameBut_raiseError _ _) rfl) (reads_blocksEqual.keep (sameBut_endOfSlice _) rfl)
    (reads_blocksEqual.keep (sameBut_doStop _) rfl) h hs

end Sys2Proof.Proofs
end

section
/-! PROOFS. The slice's budget, the key signal, the sound level, the error registers and the record of a reset (R37, R44, R153, R242, R243,
R248). -/

namespace Sys2Proof.Proofs

open Sys2Proof.Machine Sys2Proof.Safety

/-! ### The slice's budget (R44, R243) -/

/-- One instruction of a slice, or an unknown word's error, leaves the budget and the configuration alone. -/
theorem runInstr_frame {s t : State} (h : runInstr s = .next t) : SameBut (.latches :: writable) s t := by
  have hf : SameBut (.latches :: writable) s (fetch s) := (sameBut_fetch s).mono (by decide)
  obtain ⟨-, ⟨i, -, he⟩ | ⟨e, -, rfl⟩⟩ := runInstr_cases h
  · exact hf.trans ((exec_frame he).mono (by decide))
  · exact hf.trans ((sameBut_raiseError (fetch s) _).mono (by decide))

/-- A closed step is coherent where its budget is in range. -/
theorem sliceCoherent_closeStep {s : State} (h : s.sliceLeft ≤ s.cfg.opsPerSlice) : SliceCoherent (closeStep s) := by
  refine ⟨by simpa using h, fun hp => ?_⟩
  obtain ⟨hrun, hleft⟩ := (closeStep_phase s).1 hp
  exact ⟨by simpa using hrun, by simpa using Nat.pos_of_ne_zero hleft⟩

theorem hostMove_slice (s : State) (m : HostMove) :
    (hostMove s m).sliceLeft = s.sliceLeft ∧ (hostMove s m).cfg = s.cfg ∧ (hostMove s m).phase = s.phase := by
  cases m with
  | load image =>
    have hf := sameBut_doLoad s image
    exact ⟨hf .sliceLeft (by decide), hf .cfg (by decide), hf .phase (by decide)⟩
  | stop =>
    have hf := sameBut_doStop s
    exact ⟨hf .sliceLeft (by decide), hf .cfg (by decide), hf .phase (by decide)⟩
  | reset => exact ⟨rfl, rfl, rfl⟩
  | slice => exact ⟨rfl, rfl, rfl⟩
  | writeKeys k => exact ⟨rfl, rfl, rfl⟩

theorem step_keeps_sliceCoherent {s t : State} (h : step s = .next t) (hs : SliceCoherent s) : SliceCoherent t := by
  obtain ⟨hle, -⟩ := hs
  obtain ⟨-, ⟨-, u, hu, rfl⟩ | ⟨-, -, rfl⟩ | ⟨hp, -, rfl⟩ | ⟨m, rest, hp, -, -, rfl⟩⟩ := step_cases h
  · have hleft : u.sliceLeft = (atFetch s).sliceLeft := runInstr_frame hu .sliceLeft (by decide)
    have hcfg : u.cfg = s.cfg := runInstr_frame hu .cfg (by decide)
    have hstart : (atFetch s).sliceLeft ≤ s.cfg.opsPerSlice := by simp only [atFetch]; split <;> omega
    refine sliceCoherent_closeStep ?_
    show u.sliceLeft - 1 ≤ u.cfg.opsPerSlice
    rw [hleft, hcfg]; omega
  · exact sliceCoherent_closeStep hle
  · exact ⟨hle, fun hin => absurd (hp.symm.trans hin) (by decide)⟩
  · obtain ⟨hleft, hcfg, hphase⟩ := hostMove_slice { s with events := [], hostMoves := rest } m
    rw [SliceCoherent, hleft, hcfg, hphase]
    exact ⟨hle, fun hin => absurd (hp.symm.trans hin) (by decide)⟩

/-! ### The key signal (R38, R248) -/

theorem reads_keySignalHeld : Reads [.kjp, .prevKeys] KeySignalHeld := by
  intro s t h hs
  obtain ⟨hvalid, hkey⟩ : t.kjpValid = s.kjpValid ∧ t.kjpKey = s.kjpKey := h .kjp (by decide)
  have hprev : t.prevKeys = s.prevKeys := h .prevKeys (by decide)
  rwa [KeySignalHeld, hvalid, hkey, hprev]

theorem heldKeys_ne_nil {k : BitVec 16} (hk : k ≠ 0) : heldKeys k ≠ [] := by
  intro hnil
  refine hk (BitVec.eq_of_getLsbD_eq fun i hi => ?_)
  have hnot : i ∉ heldKeys k := hnil ▸ List.not_mem_nil
  simpa [mem_heldKeys, hi] using hnot

/-- The key that the scan reports is a held one, under either choice (R248). -/
theorem selectKey_held (sel : KeySelect) {k : BitVec 16} (hk : k ≠ 0) : k.getLsbD (selectKey sel k).toNat = true := by
  have hheld : ∀ i ∈ heldKeys k, k.getLsbD (BitVec.ofNat 4 i).toNat = true := by
    intro i hi
    obtain ⟨hlt, hbit⟩ := (mem_heldKeys k i).1 hi
    rwa [BitVec.toNat_ofNat, Nat.mod_eq_of_lt hlt]
  obtain ⟨a, l, hl⟩ := List.exists_cons_of_ne_nil (heldKeys_ne_nil hk)
  rw [hl] at hheld
  cases sel with
  | highest => simp only [selectKey, hl, List.getLastD_cons]; exact hheld _ List.getLastD_mem_cons
  | lowest => simp only [selectKey, hl]; exact hheld a List.mem_cons_self

theorem keySignalHeld_keyScan (s : State) : KeySignalHeld (keyScan s) := by
  unfold keyScan
  split
  · obtain ⟨hk, -⟩ := ‹s.keys ≠ 0 ∧ s.keys ≠ s.prevKeys›
    exact fun _ => selectKey_held s.cfg.keySelect hk
  · exact fun h => absurd h Bool.false_ne_true

theorem exec_keeps_keySignalHeld {i : Instr} {s t : State} (h : exec i s = .next t) (hs : KeySignalHeld s) :
    KeySignalHeld t := by
  cases i
  case exit => cases h; exact fun h => absurd h Bool.false_ne_true
  all_goals exact reads_keySignalHeld.keep (exec_writes h) rfl hs

theorem step_keeps_keySignalHeld {s t : State} (h : step s = .next t) (hs : KeySignalHeld s) : KeySignalHeld t :=
  step_keeps reads_keySignalHeld rfl (reads_keySignalHeld.keep (sameBut_fetch _) rfl) (fun _ => exec_keeps_keySignalHeld)
    (reads_keySignalHeld.keep (sameBut_raiseError _ _) rfl) (fun _ => keySignalHeld_keyScan _)
    (reads_keySignalHeld.keep (sameBut_doStop _) rfl) h hs

/-! ### The sound level (R32, R153, R246) -/

theorem reads_soundWhileCounting : Reads [.st, .sound] SoundWhileCounting := by
  intro s t h hs
  have hst : t.st = s.st := h .st (by decide)
  have hsound : t.sound = s.sound := h .sound (by decide)
  rwa [SoundWhileCounting, hst, hsound]

theorem exec_keeps_soundWhileCounting {i : Instr} {s t : State} (h : exec i s = .next t) (hs : SoundWhileCounting s) :
    SoundWhileCounting t := by
  cases i
  case exit => cases h; exact fun h => absurd rfl h
  case ldStVx =>
    simp only [exec, execLdStVx] at h; split at h <;> cases h
    · exact fun h => absurd ‹_› h
    · exact fun _ => rfl
  all_goals exact reads_soundWhileCounting.keep (exec_writes h) rfl hs

/-- The sound goes off only where its timer reaches 0 (R246). -/
theorem soundWhileCounting_tickSound {s : State} (hs : SoundWhileCounting s) : SoundWhileCounting (tickSound s) := by
  obtain ⟨hst, hsound, -⟩ := tickSound_writes s
  intro hne
  have hpos : (tickSound s).st.toNat ≠ 0 := fun e => hne (BitVec.eq_of_toNat_eq e)
  have h1 : s.st ≠ 1 := by intro e; rw [hst, e] at hpos; exact hpos rfl
  have h0 : s.st ≠ 0 := by intro e; rw [hst, e] at hpos; exact hpos rfl
  rw [hsound, if_neg h1]
  exact hs h0

theorem soundWhileCounting_endOfSlice {s : State} (hs : SoundWhileCounting s) : SoundWhileCounting (endOfSlice s) := by
  have hdelay : SoundWhileCounting (tickDelay s) := by simpa [SoundWhileCounting] using hs
  simpa [SoundWhileCounting, endOfSlice] using soundWhileCounting_tickSound hdelay

theorem step_keeps_soundWhileCounting {s t : State} (h : step s = .next t) (hs : SoundWhileCounting s) :
    SoundWhileCounting t :=
  step_keeps reads_soundWhileCounting rfl (reads_soundWhileCounting.keep (sameBut_fetch _) rfl)
    (fun _ => exec_keeps_soundWhileCounting) (reads_soundWhileCounting.keep (sameBut_raiseError _ _) rfl)
    soundWhileCounting_endOfSlice (reads_soundWhileCounting.keep (sameBut_doStop _) rfl) h hs

/-! ### The error registers (R37) -/

theorem reads_errCoherent : Reads [.err] ErrCoherent := by
  intro s t h hs
  obtain ⟨hreason, hopcode, hpc⟩ : t.errReason = s.errReason ∧ t.errOpcode = s.errOpcode ∧ t.errPc = s.errPc :=
    h .err (by decide)
  rwa [ErrCoherent, hreason, hopcode, hpc]

/-- An error raised inside a step records a diagnostic. -/
theorem errCoherent_raiseError (s : State) {r : Reason} (hr : r ∈ [Reason.unknownOpcode, .stackOverflow, .stackUnderflow]) :
    ErrCoherent (raiseError s r) := by
  intro h
  rw [raiseError_errReason] at h
  obtain rfl | rfl := h <;> exact absurd hr (by decide)

theorem exec_keeps_errCoherent {i : Instr} {s t : State} (h : exec i s = .next t) (hs : ErrCoherent s) : ErrCoherent t := by
  obtain ⟨-, herr⟩ | ⟨r, hr, rfl⟩ | rfl := exec_run h
  · exact reads_errCoherent (by simpa using herr) hs
  · exact errCoherent_raiseError s hr
  · exact fun _ => ⟨rfl, rfl⟩

theorem errCoherent_doStop {s : State} (hs : ErrCoherent s) : ErrCoherent (doStop s) := by
  unfold doStop
  split
  · exact fun _ => ⟨rfl, rfl⟩
  · exact hs

theorem step_keeps_errCoherent {s t : State} (h : step s = .next t) (hs : ErrCoherent s) : ErrCoherent t :=
  step_keeps reads_errCoherent rfl (reads_errCoherent.keep (sameBut_fetch _) rfl) (fun _ => exec_keeps_errCoherent)
    (fun _ => errCoherent_raiseError _ (by decide)) (reads_errCoherent.keep (sameBut_endOfSlice _) rfl) errCoherent_doStop h hs

/-! ### The reset before the run (R242, R284) -/

/-- An instruction runs only after a reset, and none takes the record of it back. -/
theorem runInstr_wasReset {s t : State} (h : runInstr s = .next t) : t.wasReset = true := by
  obtain ⟨⟨hreset, -⟩, ⟨i, -, he⟩ | ⟨e, -, rfl⟩⟩ := runInstr_cases h
  · exact exec_wasReset he hreset
  · exact hreset

theorem step_keeps_resetBeforeRunning {s t : State} (h : step s = .next t) (hs : ResetBeforeRunning s) :
    ResetBeforeRunning t := by
  obtain ⟨-, ⟨-, u, hu, rfl⟩ | ⟨hp, -, rfl⟩ | ⟨-, -, rfl⟩ | ⟨m, rest, -, -, -, rfl⟩⟩ := step_cases h
  · intro _
    have hu : u.wasReset = true := runInstr_wasReset hu
    rwa [closeStep_wasReset]
  · intro _
    rw [closeStep_wasReset]
    exact hs (.inr hp)
  · exact hs
  · cases m with
    | load image => simpa [ResetBeforeRunning, hostMove, doLoad] using hs
    | reset => exact fun _ => rfl
    | stop =>
      show ResetBeforeRunning (doStop _)
      unfold doStop
      split
      · have hrun : s.run = .running := ‹_›
        exact fun _ => hs (.inl (by rw [hrun]; decide))
      · exact hs
    | slice => exact hs
    | writeKeys k => exact hs

/-- Settles O59: each of the five is kept on its own. -/
theorem stepKeepsStatusCoherent : Obligations.StepKeepsStatusCoherent := fun _ _ h =>
  ⟨step_keeps_sliceCoherent h, step_keeps_keySignalHeld h, step_keeps_soundWhileCounting h, step_keeps_errCoherent h,
    step_keeps_resetBeforeRunning h⟩

end Sys2Proof.Proofs
end

section
/-! PROOFS. Flag storage, the writers of each item, load, reset and the model's stops. -/

namespace Sys2Proof.Proofs

open Sys2Proof.Machine Sys2Proof.Safety

/-! ### Flag storage (R33, R159, R160) -/

theorem exec_ldRVx {x : Nibble} (s : State) (hx : x.toNat ≤ 7) :
    exec (.ldRVx x) s = .next ((blockRegs x).foldl (fun t i => setRpl t i (getV s (regOf i))) s) := if_pos hx

theorem exec_ldVxR {x : Nibble} (s : State) (hx : x.toNat ≤ 7) :
    exec (.ldVxR x) s = .next ((blockRegs x).foldl (fun t i => setV t (regOf i) (getRpl s i)) s) := if_pos hx

/-- Settles O36: a block save and a block load of the registers up to `x`. -/
theorem flagStorageSaveAndRestore : Obligations.FlagStorageSaveAndRestore := by
  intro x s hx
  have hsave := getRpl_blockSave (fun i => getV s (regOf i)) (x.toNat + 1) (by omega) s
  have hload := getV_blockLoad (fun i => getRpl s i) (x.toNat + 1) (by omega) s
  refine ⟨⟨_, exec_ldRVx s hx, fun k hk => ?_, fun k hk => ?_, sameBut_blockSave _ _ s⟩,
    ⟨_, exec_ldVxR s hx, fun j hj => ?_, fun j hj => ?_, sameBut_blockLoad _ _ s⟩⟩
  · exact (hsave k).trans (if_pos (by omega))
  · exact (hsave k).trans (if_neg (by omega))
  · exact (hload j).trans (if_pos (by omega))
  · exact (hload j).trans (if_neg fun hlt => hj (Nat.le_of_lt_succ hlt))

/-! ### Which instructions write what -/

/-- Settles O52: outside the instructions named, the part is not in the list of what the instruction may write. -/
theorem registerWriters : Obligations.RegisterWriters := by
  intro i s t h
  refine ⟨?idx, ?sp, ?rpl, ?mode⟩
  case idx =>
    cases i
    case ldINnn | addIVx | ldFVx | exit => trivial
    all_goals exact exec_unwritten h .idx rfl
  case sp =>
    cases i
    case call | ret | exit => trivial
    all_goals exact exec_unwritten h .sp rfl
  case rpl =>
    cases i
    case ldRVx => trivial
    all_goals exact exec_unwritten h .rpl rfl
  case mode =>
    cases i
    case low | high | exit => trivial
    all_goals exact exec_unwritten h .mode rfl

/-- Settles O53: as for the registers of O52, through the same list. -/
theorem memoryAndDeviceWriters : Obligations.MemoryAndDeviceWriters := by
  intro i s t h
  refine ⟨?mem, ?phys, ?dt, ?sound, ?keys⟩
  case mem =>
    cases i
    case call | ldBVx | ldMiVx => trivial
    all_goals exact exec_unwritten h .mem rfl
  case phys =>
    cases i
    case cls | scd | scr | scl | low | high | drw | exit => trivial
    all_goals exact exec_unwritten h .phys rfl
  case dt =>
    cases i
    case ldDtVx | exit => trivial
    all_goals exact exec_unwritten h .dt rfl
  case sound =>
    cases i
    case ldStVx | exit => trivial
    all_goals exact ⟨exec_unwritten h .st rfl, exec_unwritten h .sound rfl⟩
  case keys =>
    cases i
    case exit => trivial
    all_goals exact ⟨exec_unwritten h .keys rfl, exec_unwritten h .prevKeys rfl, exec_unwritten h .kjp rfl⟩

/-- A block load up to a register below `F` leaves `VF` alone. -/
theorem getV_F_blockLoad (f : Nat → Byte) (s : State) {x : Nibble} (hx : x.toNat < 15) :
    getV ((blockRegs x).foldl (fun t i => setV t (regOf i) (f i)) s) 0xF = getV s 0xF :=
  (getV_blockLoad f (x.toNat + 1) (by omega) s 0xF).trans
    (if_neg (by rw [show (0xF : Nibble).toNat = 15 from rfl]; omega))

theorem getV_F_setV {x : Nibble} (hx : x ≠ 0xF#4) (s : State) (b : Byte) : getV (setV s x b) 0xF = getV s 0xF :=
  (getV_setV ..).trans (if_neg (Ne.symm hx))

/-- Settles O54: what is no flag producer writes one register, or a block of registers that ends below `F`, or no register. -/
theorem flagWriters : Obligations.FlagWriters := by
  intro i s t h
  cases i
  case ldVxK =>
    simp only [exec, execLdVxK] at h; split at h <;> cases h
    · exact fun hx => getV_F_setV hx s _
    · exact fun _ => rfl
  case ldVxMi x =>
    cases h
    intro hx
    have hne : x.toNat ≠ 15 := fun e => hx (BitVec.eq_of_toNat_eq e)
    exact getV_F_blockLoad _ s (by omega)
  case ldVxR x =>
    simp only [exec, execLdVxR] at h; split at h <;> cases h
    · exact getV_F_blockLoad _ s (by omega)
    · rfl
  case rnd => cases h; exact fun hx => getV_F_setV hx { s with draws := s.draws + 1 } _
  case ldVxKk | addVxKk | ldVxVy | orVxVy | andVxVy | xorVxVy | ldVxDt => cases h; exact fun hx => getV_F_setV hx s _
  case addVxVy | sub | shr | subn | shl | drw | exit => trivial
  all_goals exact exec_unwritten h .v rfl 0xF

/-! ### The host's moves, load and reset -/

/-- Between slices the host's next move is made, whatever the core's run state is (R69, R262). -/
theorem step_of_hostMove {s : State} {m : HostMove} {rest : List HostMove} (hl : s.cfg.Legal) (hp : s.phase = .between)
    (hm : s.hostMoves = m :: rest) (hne : m ≠ .slice) :
    step s = .next (hostMove { s with events := [], hostMoves := rest } m) := by
  cases m with
  | slice => exact absurd rfl hne
  | load image => simp [step, coreStep, hl, hp, hm]
  | reset => simp [step, coreStep, hl, hp, hm]
  | stop => simp [step, coreStep, hl, hp, hm]
  | writeKeys k => simp [step, coreStep, hl, hp, hm]

/-- What no cell lists, in the numbers of R45, R46 and R67. -/
theorem unlisted_eq (c : Config) (a : Nat) :
    unlisted c a =
      if a < 80 then font.getD a 0
      else if 0x050 ≤ a ∧ a < 0x0F0 then c.extFont.toList.getD (a - 0x050) 0 else 0x00 := by
  have hext : c.extFont.toList.getD (a - 0x050) 0 = c.extFont[a - 0x050]?.getD 0 := by
    rw [List.getD_eq_getElem?_getD, Vector.getElem?_toList]
  rw [hext]
  rfl

/-- `Load` leaves the image from 0x200 on, as far as it fits, and elsewhere what an empty image leaves (R75). -/
theorem memRead_doLoad (s : State) (image : List Byte) {a : Nat} (ha : a < 4096) :
    memRead (doLoad s image) a =
      if 0x200 ≤ a ∧ a - 0x200 < image.length then image.getD (a - 0x200) 0 else unlisted s.cfg a := by
  have hlen : (image.take (memSize - progOrigin)).length ≤ 3584 := List.length_take_le _ _
  have hempty : memRead { s with mem := [], loaded := true } a = unlisted s.cfg a := by
    simp [memRead, cellsRead, memSize, Nat.mod_eq_of_lt ha]
  rw [doLoad, memRead_memWriteBytes (s := { s with mem := [], loaded := true }) progOrigin a _ (by omega) rfl, hempty]
  simp only [progOrigin, memSize] at hlen ⊢
  by_cases hlo : 0x200 ≤ a
  · rw [show (a % 4096 + 4096 - 0x200 % 4096) % 4096 = a - 0x200 by omega, List.getElem?_take_of_lt (by omega)]
    by_cases hin : a - 0x200 < image.length
    · simp [hlo, hin]
    · simp [hlo, hin]
  · rw [List.getElem?_eq_none (by omega), if_neg (fun h => hlo h.1)]

/-- Settles O45: `memRead_doLoad` with the fonts written out, and the host's move. -/
theorem loadInstallsFontsAndImage : Obligations.LoadInstallsFontsAndImage := by
  refine ⟨fun s image => ⟨fun a ha => ?_, ?_, sameBut_doLoad s image⟩, fun s image rest hl hp hm => ?_⟩
  · rw [memRead_doLoad s image ha, unlisted_eq]
  · simp [doLoad]
  · exact step_of_hostMove hl hp hm nofun

/-- Settles O44: the two operations write different fields, so either order computes to one state; a second reset differs in the
events alone. -/
theorem resetAfterLoad : Obligations.ResetAfterLoad := by
  refine ⟨fun u => ⟨rfl, rfl⟩, rfl, fun s => ?_, fun s rest hl hp hm => ?_⟩
  · have hevents : (doReset (doReset s)).events = s.events ++ [.soundOff, .soundOff] := by simp
    rw [← hevents]; rfl
  · exact step_of_hostMove hl hp hm nofun

/-! ### The model's stops (R284, 93 part 1) -/

/-- Settles O9: the configuration is looked at first, and the fetch looks for the reset and then for the load. -/
theorem stepStopsByName : Obligations.StepStopsByName := by
  refine fun s => ⟨fun hl => ?_, fun hruns hreset => ?_, fun hruns hreset hload => ?_⟩
  · exact if_neg hl
  · have hrun : runInstr (atFetch s) = .fault .neverReset := by simp [runInstr, atFetch, hreset]
    rw [step_of_runs hruns, sliceStep, hrun]
  · have hrun : runInstr (atFetch s) = .fault .memoryNeverLoaded := by simp [runInstr, atFetch, hreset, hload]
    rw [step_of_runs hruns, sliceStep, hrun]

/-! ### The invariants at reset and at power-on -/

theorem inv_reset : Inv State.reset where
  legal := by decide
  pc := by decide
  sp := ⟨0, Nat.zero_le _, rfl⟩
  mem := rfl
  blocks := blocksEqual_of_dark rfl
  slice := by decide
  keySignal := by decide
  sound := by decide
  err := by decide
  reset := by decide

theorem getRpl_powerOn (u : State) (k : Nat) : getRpl (State.powerOn u) k = 0x00 := by
  simp only [getRpl, State.powerOn, Vector.getElem?_replicate]
  split <;> rfl

theorem resetBeforeRunning_powerOn (u : State) : ResetBeforeRunning (State.powerOn u) := by
  rintro (h | h)
  · exact absurd rfl h
  · exact absurd h (by simp [State.powerOn])

/-- Settles O60: `State.reset` is a concrete state with a dark display; power-on is `Idle`, between slices, with flag storage filled. -/
theorem resetMeetsInvariants : Obligations.ResetMeetsInvariants :=
  ⟨inv_reset, fun u => ⟨rfl, getRpl_powerOn u, resetBeforeRunning_powerOn u⟩⟩

end Sys2Proof.Proofs
end

section
/-! PROOFS. The family of memory (spec/20_memory.md): its canonical form, a read after a write, the host's `Stop` and its write of `KEYS`. -/

namespace Sys2Proof.Proofs

open Sys2Proof.Machine Sys2Proof.Safety

/-! ### The canonical form of memory (log entry 5) -/

/-- The canonical form reads the configuration and the cells themselves, where the frame part `.mem` compares what the cells read as. -/
theorem memCanonical_congr {s t : State} (hcfg : t.cfg = s.cfg) (hmem : t.mem = s.mem) (hs : MemCanonical s) :
    MemCanonical t := by
  rwa [MemCanonical, hcfg, hmem]

/-- The writers of memory are `CALL`, `LD B` and `LD [I]`, each by byte writes; every other instruction keeps the cells. -/
theorem exec_keeps_memCanonical {i : Instr} {s t : State} (h : exec i s = .next t) (hs : MemCanonical s) :
    MemCanonical t := by
  cases i
  case call =>
    simp only [exec, execCall] at h; split at h <;> cases h
    · exact hs
    · exact push_wf s.pc hs
  case ldBVx | ldMiVx => cases h; exact memWriteBytes_wf _ _ hs
  case ret | ldVxK | ldStVx =>
    simp only [exec, execRet, execLdVxK, execLdStVx] at h; split at h <;> cases h <;> exact hs
  case ldRVx | ldVxR =>
    simp only [exec, execLdRVx, execLdVxR] at h; split at h <;> cases h
    · exact List.foldlRecOn _ _ hs fun _ ht _ _ => ht
    · exact hs
  case ldVxMi => cases h; exact List.foldlRecOn _ _ hs fun _ ht _ _ => ht
  case seVxKk | sneVxKk | seVxVy | sneVxVy | skp | sknp =>
    cases h; exact memCanonical_congr (skipIf_cfg _ s) (skipIf_mem _ s) hs
  all_goals cases h; exact hs

/-- The fetch and an unknown word's error keep the cells, and so the instruction decides (R96). -/
theorem runInstr_keeps_memCanonical {s t : State} (h : runInstr s = .next t) (hs : MemCanonical s) : MemCanonical t := by
  obtain ⟨-, ⟨i, -, he⟩ | ⟨e, -, rfl⟩⟩ := runInstr_cases h
  · exact exec_keeps_memCanonical he (s := fetch s) hs
  · exact hs

theorem closeStep_keeps_memCanonical {s : State} (hs : MemCanonical s) : MemCanonical (closeStep s) :=
  memCanonical_congr (closeStep_cfg s) (closeStep_mem s) hs

/-- `Stop` writes `RUN` and the error registers on a running core (R249). -/
theorem doStop_of_running {s : State} (h : s.run = .running) :
    doStop s = { s with run := .halted, errReason := .hostStop, errOpcode := 0, errPc := 0 } := if_pos h

/-- `Stop` has no effect on a core that does not run (R249). -/
theorem doStop_of_not_running {s : State} (h : s.run ≠ .running) : doStop s = s := if_neg h

/-- `Load` starts from no cells and writes the image byte by byte; no other move of the host touches memory. -/
theorem hostMove_keeps_memCanonical {s : State} (m : HostMove) (hs : MemCanonical s) : MemCanonical (hostMove s m) := by
  cases m with
  | load image => exact memWriteBytes_wf (s := { s with mem := [], loaded := true }) _ _ rfl
  | stop =>
    show MemCanonical (doStop s)
    by_cases hrun : s.run = .running
    · rw [doStop_of_running hrun]; exact hs
    · rwa [doStop_of_not_running hrun]
  | reset | slice | writeKeys => exact hs

/-- Settles O55: a step is one instruction of a slice, a slice's close or a move of the host, and each keeps the form. -/
theorem stepKeepsMemoryCanonical : Obligations.StepKeepsMemoryCanonical := by
  intro s t hs h
  obtain ⟨-, ⟨-, u, hu, rfl⟩ | ⟨-, -, rfl⟩ | ⟨-, -, rfl⟩ | ⟨m, rest, -, -, -, rfl⟩⟩ := step_cases h
  · have hu : MemCanonical u := runInstr_keeps_memCanonical (s := atFetch s) hu hs
    exact closeStep_keeps_memCanonical hu
  · exact closeStep_keeps_memCanonical hs
  · exact hs
  · exact hostMove_keeps_memCanonical m hs

/-! ### Reading and writing a byte (R61, R62, R64) -/

/-- An address counts mod 4096: whole turns of memory change nothing (R64). -/
theorem memRead_add_turns (s : State) (a k : Nat) : memRead s (a + 4096 * k) = memRead s a := by
  rw [← memRead_mod, Nat.add_mul_mod_self_left, memRead_mod]

/-- Settles O12: the canonical form is what makes the cell written the one that is read. -/
theorem readAfterWrite : Obligations.ReadAfterWrite := fun s a b h =>
  ⟨fun a' => memRead_memWrite a a' b h, sameBut_memWrite s a b, memRead_add_turns s a⟩

/-! ### The host's `Stop` and its write of `KEYS` (R69, R249, R262) -/

/-- A host's move is taken off the list, with no event recorded before it (log entries 12 and 13). -/
theorem sameBut_takeMove (s : State) (rest : List HostMove) :
    SameBut [.events, .hostMoves] s { s with events := [], hostMoves := rest } := by
  apply SameBut.of_fields <;> simp

/-- Settles O46: the move is made at once on the state whose list it is taken off, and signals nothing. -/
theorem hostStopAndKeys : Obligations.HostStopAndKeys := by
  refine fun s rest k hl hp => ⟨fun hm => ?_, fun hm => ?_⟩
  · have hstep : step s = .next (doStop { s with events := [], hostMoves := rest }) := step_of_hostMove hl hp hm nofun
    have hstop := sameBut_doStop { s with events := [], hostMoves := rest }
    refine ⟨_, hstep, fun hrun => ?_, fun hrun => ?_, hstop .hostMoves (by decide), hstop .events (by decide),
      ((sameBut_takeMove s rest).mono (by decide)).trans (hstop.mono (by decide))⟩
    · simp [doStop_of_running, hrun]
    · simp [doStop_of_not_running, hrun, Part.Same]
  · refine ⟨_, step_of_hostMove hl hp hm nofun, rfl, rfl, rfl, ?_⟩
    apply SameBut.of_fields <;> simp [hostMove]

end Sys2Proof.Proofs
end

section
/-! PROOFS. The family of the encoding (spec/30_encoding.md): the round trips of the decoder and the encoder, the unknown opcodes, and the
step that runs a decoded word. -/

namespace Sys2Proof.Proofs

open Sys2Proof.Machine Sys2Proof.Safety

/-! ### Dispatch (R84-R88) -/

theorem decode_of_op0 {w : Word} (h : fieldOp w = 0x0) : decode w = decodeFamily0 w := by rw [decode, h]; rfl

theorem decode_of_op8 {w : Word} (h : fieldOp w = 0x8) : decode w = .ok (decodeFamily8 w) := by rw [decode, h]; rfl

theorem decode_of_opE {w : Word} (h : fieldOp w = 0xE) : decode w = decodeFamilyE w := by rw [decode, h]; rfl

theorem decode_of_opF {w : Word} (h : fieldOp w = 0xF) : decode w = decodeFamilyF w := by rw [decode, h]; rfl

/-- No low byte of R86's table has SCD's high nibble, so that the order of the two tests in family 0 does not matter. -/
theorem table0_not_scd : ∀ p ∈ table0, p.1.extractLsb' 4 4 ≠ selectors.scdHi := by decide

theorem decode_scdWord (ign n : Nibble) : decode (wordXyn 0x0 ign selectors.scdHi n) = .ok (.scd ign n) := by
  rw [decode_of_op0 (fieldOp_wordXyn ..), decodeFamily0, if_pos (fieldY_wordXyn ..), fieldX_wordXyn, fieldN_wordXyn]

theorem decode_table0Word {kk : Byte} {build : Nibble → Instr} (h : pick kk table0 = some build) (ign : Nibble) :
    decode (wordXkk 0x0 ign kk) = .ok (build ign) := by
  have hy : fieldY (wordXkk 0x0 ign kk) ≠ selectors.scdHi := by
    rw [fieldY_wordXkk]; exact table0_not_scd _ (mem_of_pick h)
  rw [decode_of_op0 (fieldOp_wordXkk ..), decodeFamily0, if_neg hy, fieldKk_wordXkk, h, fieldX_wordXkk]

theorem decode_table8Word {w : Word} {build : Word → Instr} (hop : fieldOp w = 0x8) (h : pick (fieldN w) table8 = some build) :
    decode w = .ok (build w) := by
  rw [decode_of_op8 hop, decodeFamily8, h]

theorem decode_tableEWord {kk : Byte} {build : Nibble → Instr} (h : pick kk tableE = some build) (x : Nibble) :
    decode (wordXkk 0xE x kk) = .ok (build x) := by
  rw [decode_of_opE (fieldOp_wordXkk ..), decodeFamilyE, fieldKk_wordXkk, h, fieldX_wordXkk]

theorem decode_tableFWord {kk : Byte} {build : Nibble → Instr} (h : pick kk tableF = some build) {x : Nibble}
    (hwf : (build x).wellFormed = true) : decode (wordXkk 0xF x kk) = .ok (build x) := by
  rw [decode_of_opF (fieldOp_wordXkk ..), decodeFamilyF, fieldKk_wordXkk, h, fieldX_wordXkk]
  exact if_pos hwf

/-! ### Decoding the word of an instruction -/

/-- Settles O1: the word of a row carries the row's selector, under which its family's table has that row. -/
theorem decodeOfEncode : Obligations.DecodeOfEncode := by
  intro i hwf
  cases i
  case cls | ret | scr | scl | exit | low | high => exact decode_table0Word rfl _
  case scd ign n => exact decode_scdWord ign n
  case ldVxVy x y | orVxVy x y | andVxVy x y | xorVxVy x y | addVxVy x y | sub x y | shr x y | subn x y | shl x y =>
    simp only [encode]
    rw [decode_table8Word (fieldOp_wordXyn ..) (by rw [fieldN_wordXyn]; rfl), fieldX_wordXyn, fieldY_wordXyn]
  case nop8x8 | nop8x9 | nop8xA | nop8xB | nop8xC | nop8xD =>
    simp only [encode]
    rw [decode_table8Word (fieldOp_wordXyTogether ..) (by rw [fieldN_wordXyTogether]; rfl), fieldXy_wordXyTogether]
  case nop8xF ign =>
    rw [encode, decode_of_op8 (fieldOp_wordXyTogether ..), decodeFamily8, fieldN_wordXyTogether, fieldXy_wordXyTogether]
    rfl
  case skp | sknp => exact decode_tableEWord rfl _
  case ldVxDt | ldVxK | ldDtVx | ldStVx | addIVx | ldFVx | ldBVx | ldMiVx | ldVxMi | ldRVx | ldVxR =>
    exact decode_tableFWord rfl hwf
  case jp | call | seVxKk | sneVxKk | seVxVy | ldVxKk | addVxKk | sneVxVy | ldINnn | jpV0 | rnd | drw => simp [encode, decode]

/-! ### Encoding what a word decodes to -/

theorem encode_table0 : ∀ p ∈ table0, ∀ ign, (p.2 ign).wellFormed = true ∧ encode (p.2 ign) = wordXkk 0x0 ign p.1 := by
  simp [table0, encode, Instr.wellFormed]

theorem encode_tableE : ∀ p ∈ tableE, ∀ x, (p.2 x).wellFormed = true ∧ encode (p.2 x) = wordXkk 0xE x p.1 := by
  simp [tableE, encode, Instr.wellFormed]

theorem encode_tableF : ∀ p ∈ tableF, ∀ x, encode (p.2 x) = wordXkk 0xF x p.1 := by
  simp [tableF, encode]

/-- The two register nibbles of a word, taken one by one or together (R140). -/
theorem wordXyTogether_fieldXy (op : Nibble) (w : Word) (n : Nibble) :
    wordXyTogether op (fieldXy w) n = wordXyn op (fieldX w) (fieldY w) n := by
  apply BitVec.eq_of_toNat_eq
  rw [toNat_wordXyTogether, toNat_wordXyn, toNat_fieldXy, toNat_fieldX, toNat_fieldY]
  omega

theorem encode_table8 : ∀ p ∈ table8, ∀ w,
    (p.2 w).wellFormed = true ∧ encode (p.2 w) = wordXyn 0x8 (fieldX w) (fieldY w) p.1 := by
  simp [table8, encode, Instr.wellFormed, wordXyTogether_fieldXy]

/-- `0xF` is the one code that R85's table leaves out. -/
theorem pick_table8_eq_none : ∀ n : Nibble, (pick n table8).isNone = true → n = 0xF := by decide

theorem encode_decodeFamily8 {w : Word} (hop : fieldOp w = 0x8) :
    (decodeFamily8 w).wellFormed = true ∧ encode (decodeFamily8 w) = w := by
  have hw : wordXyn 0x8 (fieldX w) (fieldY w) (fieldN w) = w := by rw [← hop, wordXyn_fields]
  rw [decodeFamily8]
  cases h : pick (fieldN w) table8 with
  | some build =>
    obtain ⟨hwf, henc⟩ := encode_table8 _ (mem_of_pick h) w
    exact ⟨hwf, henc.trans hw⟩
  | none =>
    have hn : fieldN w = 0xF := pick_table8_eq_none _ (by rw [h]; rfl)
    exact ⟨rfl, by rw [encode, wordXyTogether_fieldXy, ← hn, hw]⟩

theorem encode_of_decodeFamily0 {w : Word} {i : Instr} (hop : fieldOp w = 0x0) (h : decodeFamily0 w = .ok i) :
    i.wellFormed = true ∧ encode i = w := by
  rw [decodeFamily0] at h
  split at h
  · cases h
    have hy : fieldY w = selectors.scdHi := ‹_›
    exact ⟨rfl, by rw [encode, ← hop, ← hy, wordXyn_fields]⟩
  · split at h <;> cases h
    obtain ⟨hwf, henc⟩ := encode_table0 _ (mem_of_pick ‹_›) (fieldX w)
    exact ⟨hwf, henc.trans (by rw [← hop, wordXkk_fields])⟩

theorem encode_of_decodeFamilyE {w : Word} {i : Instr} (hop : fieldOp w = 0xE) (h : decodeFamilyE w = .ok i) :
    i.wellFormed = true ∧ encode i = w := by
  rw [decodeFamilyE] at h
  split at h <;> cases h
  obtain ⟨hwf, henc⟩ := encode_tableE _ (mem_of_pick ‹_›) (fieldX w)
  exact ⟨hwf, henc.trans (by rw [← hop, wordXkk_fields])⟩

theorem encode_of_decodeFamilyF {w : Word} {i : Instr} (hop : fieldOp w = 0xF) (h : decodeFamilyF w = .ok i) :
    i.wellFormed = true ∧ encode i = w := by
  rw [decodeFamilyF] at h
  split at h
  · split at h <;> cases h
    have henc := encode_tableF _ (mem_of_pick ‹_›) (fieldX w)
    exact ⟨‹_›, henc.trans (by rw [← hop, wordXkk_fields])⟩
  · cases h

/-- Settles O2: a row of the primary dispatch is rebuilt from the fields it keeps, and a family's word from its selector and its `x` (R84). -/
theorem encodeOfDecode : Obligations.EncodeOfDecode := by
  intro w i h
  have hop : ∀ c : Nibble, (fieldOp w).toNat = c.toNat → fieldOp w = c := fun _ => BitVec.eq_of_toNat_eq
  have hnnn : ∀ c : Nibble, (fieldOp w).toNat = c.toNat → wordNnn c (fieldNnn w) = w :=
    fun c e => by rw [← hop c e, wordNnn_fields]
  have hxkk : ∀ c : Nibble, (fieldOp w).toNat = c.toNat → wordXkk c (fieldX w) (fieldKk w) = w :=
    fun c e => by rw [← hop c e, wordXkk_fields]
  have hxyn : ∀ c : Nibble, (fieldOp w).toNat = c.toNat → wordXyn c (fieldX w) (fieldY w) (fieldN w) = w :=
    fun c e => by rw [← hop c e, wordXyn_fields]
  unfold decode at h
  split at h
  -- Case `h_n` is the row of `op = n - 1`.
  case h_1 e => exact encode_of_decodeFamily0 (hop 0x0 e) h
  case h_9 e => cases h; exact encode_decodeFamily8 (hop 0x8 e)
  case h_15 e => exact encode_of_decodeFamilyE (hop 0xE e) h
  case h_16 =>
    have e : (fieldOp w).toNat = 0xF := by have := (fieldOp w).isLt; grind
    exact encode_of_decodeFamilyF (hop 0xF e) h
  case h_2 e | h_3 e | h_11 e | h_12 e => cases h; exact ⟨rfl, hnnn _ e⟩
  case h_4 e | h_5 e | h_7 e | h_8 e | h_13 e => cases h; exact ⟨rfl, hxkk _ e⟩
  case h_6 e | h_10 e | h_14 e => cases h; exact ⟨rfl, hxyn _ e⟩

/-! ### The unknown opcodes (R90) -/

/-- Only the families 0, E and F leave words out. -/
theorem decode_eq_error_iff (w : Word) (e : Unknown) : decode w = .error e ↔
    (fieldOp w).toNat = 0x0 ∧ decodeFamily0 w = .error e ∨ (fieldOp w).toNat = 0xE ∧ decodeFamilyE w = .error e ∨
      (fieldOp w).toNat = 0xF ∧ decodeFamilyF w = .error e := by
  have hlt := (fieldOp w).isLt
  unfold decode
  split
  case h_16 =>
    have hF : (fieldOp w).toNat = 0xF := by grind
    simp [hF]
  all_goals simp [*]

/-- A byte that a table leaves out, by the numbers of the table's selectors. -/
theorem pick_eq_none_iff_toNat {β : Type} {kk : Byte} {l : List (Byte × β)} :
    pick kk l = none ↔ kk.toNat ∉ l.map (·.1.toNat) := by
  simp only [pick_eq_none, List.mem_map, not_exists, not_and, ne_eq, ← BitVec.toNat_inj, eq_comm (a := kk.toNat)]

theorem decodeFamily0_fails_iff (w : Word) : (∃ e, decodeFamily0 w = .error e) ↔
    (fieldKk w).toNat ∉ [0xE0, 0xEE, 0xFB, 0xFC, 0xFD, 0xFE, 0xFF] ∧ (fieldY w).toNat ≠ 0xC := by
  have hkk : pick (fieldKk w) table0 = none ↔ (fieldKk w).toNat ∉ [0xE0, 0xEE, 0xFB, 0xFC, 0xFD, 0xFE, 0xFF] :=
    pick_eq_none_iff_toNat
  have hy : (fieldY w).toNat = 0xC ↔ fieldY w = selectors.scdHi := BitVec.toNat_inj (y := selectors.scdHi)
  rw [← hkk, ne_eq, hy, decodeFamily0]
  by_cases hscd : fieldY w = selectors.scdHi
  · simp [hscd]
  · rw [if_neg hscd]
    split <;> simp [*]

theorem decodeFamilyE_fails_iff (w : Word) : (∃ e, decodeFamilyE w = .error e) ↔ (fieldKk w).toNat ∉ [0x9E, 0xA1] := by
  have hkk : pick (fieldKk w) tableE = none ↔ (fieldKk w).toNat ∉ [0x9E, 0xA1] := pick_eq_none_iff_toNat
  rw [← hkk, decodeFamilyE]
  split <;> simp [*]

theorem wellFormed_tableF : ∀ p ∈ tableF, ∀ x,
    ¬ (p.2 x).wellFormed = true ↔ p.1.toNat ∈ [0x75, 0x85] ∧ 7 < x.toNat := by
  simp [tableF, selectors, Instr.wellFormed]

theorem decodeFamilyF_fails_iff (w : Word) : (∃ e, decodeFamilyF w = .error e) ↔
    (fieldKk w).toNat ∉ [0x07, 0x0A, 0x15, 0x18, 0x1E, 0x29, 0x33, 0x55, 0x65, 0x75, 0x85] ∨
      (fieldKk w).toNat ∈ [0x75, 0x85] ∧ 7 < (fieldX w).toNat := by
  have hkk : pick (fieldKk w) tableF = none ↔
      (fieldKk w).toNat ∉ [0x07, 0x0A, 0x15, 0x18, 0x1E, 0x29, 0x33, 0x55, 0x65, 0x75, 0x85] := pick_eq_none_iff_toNat
  rw [← hkk, decodeFamilyF]
  split
  · rw [← wellFormed_tableF _ (mem_of_pick ‹_›)]
    split <;> simp [*]
  · simp [*]

theorem decode_fails_iff (w : Word) : (∃ e, decode w = .error e) ↔
    (fieldOp w).toNat = 0x0 ∧ (∃ e, decodeFamily0 w = .error e) ∨ (fieldOp w).toNat = 0xE ∧ (∃ e, decodeFamilyE w = .error e) ∨
      (fieldOp w).toNat = 0xF ∧ (∃ e, decodeFamilyF w = .error e) := by
  simp only [decode_eq_error_iff, exists_or, exists_and_left]

/-! ### The instruction of a step (R82, R83, R96) -/

theorem runInstr_of_ok {s : State} {i : Instr} (hb : Booted s) (h : decode (memWord s s.pc.toNat) = .ok i) :
    runInstr s = exec i (fetch s) := by
  obtain ⟨hreset, hload⟩ := hb
  have hir : decode (fetch s).ir = .ok i := h
  rw [runInstr, if_pos hreset, if_pos hload, hir]

theorem runInstr_of_error {s : State} {e : Unknown} (hb : Booted s) (h : decode (memWord s s.pc.toNat) = .error e) :
    runInstr s = .next (raiseError (fetch s) .unknownOpcode) := by
  obtain ⟨hreset, hload⟩ := hb
  have hir : decode (fetch s).ir = .error e := h
  rw [runInstr, if_pos hreset, if_pos hload, hir]

/-- Settles O3: the three families that leave words out, each by the numbers of its table. -/
theorem unknownOpcodesExactly : Obligations.UnknownOpcodesExactly := by
  refine ⟨fun w => ?_, fun _ _ => runInstr_of_error⟩
  rw [decode_fails_iff, decodeFamily0_fails_iff, decodeFamilyE_fails_iff, decodeFamilyF_fails_iff, and_or_left, toNat_fieldOp,
    toNat_fieldKk, toNat_fieldX, toNat_fieldY]

/-- Settles O5: the state that the fetch leaves is the one `entryState` writes out. -/
theorem stepRunsDecodedInstruction : Obligations.StepRunsDecodedInstruction := by
  intro s i hruns hb h
  obtain ⟨t, ht⟩ := exec_completes i (entryState s)
  have hrun : runInstr (atFetch s) = .next t := (runInstr_of_ok (s := atFetch s) hb h).trans ht
  simp only [step_of_runs hruns, sliceStep, hrun, ht]

/-! ### Every step completes (R237, R285) -/

theorem sliceStep_completes {s : State} (hb : Booted s) : ∃ t, sliceStep s = .next t := by
  obtain ⟨t, ht⟩ := runInstr_completes hb
  exact ⟨_, by rw [sliceStep, ht]⟩

theorem startSlice_completes {s : State} (hb : Booted s) : ∃ t, startSlice s = .next t := by
  unfold startSlice
  split
  · exact sliceStep_completes hb
  · exact ⟨_, rfl⟩

theorem step_completes {s : State} (hl : s.cfg.Legal) (hb : Booted s) : ∃ t, step s = .next t := by
  rw [step, coreStep, if_pos hl]
  split
  · split
    · exact sliceStep_completes hb
    · exact ⟨_, rfl⟩
  · split
    · exact startSlice_completes hb
    · exact startSlice_completes hb
    · exact ⟨_, rfl⟩

theorem reads_booted : Reads [.wasReset, .loaded] Booted := by
  intro s t h hs
  have hreset : t.wasReset = s.wasReset := h .wasReset (by decide)
  have hload : t.loaded = s.loaded := h .loaded (by decide)
  rwa [Booted, hreset, hload]

theorem booted_closeStep {s : State} (hs : Booted s) : Booted (closeStep s) :=
  reads_booted (by simp [Part.Same]) hs

/-- No move of the host takes back that `Load` and `Reset` have happened. -/
theorem booted_hostMove {s : State} (m : HostMove) (hs : Booted s) : Booted (hostMove s m) := by
  obtain ⟨hreset, hload⟩ := hs
  cases m with
  | load image =>
    have hkept : (doLoad s image).wasReset = s.wasReset := sameBut_doLoad s image .wasReset (by decide)
    exact ⟨hkept.trans hreset, by simp [hostMove, doLoad]⟩
  | reset => exact ⟨rfl, hload⟩
  | stop => exact reads_booted.keep (sameBut_doStop s) rfl ⟨hreset, hload⟩
  | slice | writeKeys => exact ⟨hreset, hload⟩

theorem runInstr_keeps_booted {s t : State} (h : runInstr s = .next t) (hs : Booted s) : Booted t := by
  obtain ⟨-, hload⟩ := hs
  have hkept : t.loaded = s.loaded := runInstr_frame h .loaded (by decide)
  exact ⟨runInstr_wasReset h, hkept.trans hload⟩

theorem step_keeps_booted {s t : State} (h : step s = .next t) (hs : Booted s) : Booted t := by
  obtain ⟨-, ⟨-, u, hu, rfl⟩ | ⟨-, -, rfl⟩ | ⟨-, -, rfl⟩ | ⟨m, rest, -, -, -, rfl⟩⟩ := step_cases h
  · have hbu : Booted u := runInstr_keeps_booted (s := atFetch s) hu hs
    exact booted_closeStep hbu
  · exact booted_closeStep hs
  · exact hs
  · exact booted_hostMove m hs

theorem step_keeps_cfg {s t : State} (h : step s = .next t) : t.cfg = s.cfg := by
  obtain ⟨-, ⟨-, u, hu, rfl⟩ | ⟨-, -, rfl⟩ | ⟨-, -, rfl⟩ | ⟨m, rest, -, -, -, rfl⟩⟩ := step_cases h
  · have hcfg : u.cfg = s.cfg := runInstr_frame hu .cfg (by decide)
    rwa [closeStep_cfg]
  · exact closeStep_cfg _
  · rfl
  · obtain ⟨-, hcfg, -⟩ := hostMove_slice { s with events := [], hostMoves := rest } m
    exact hcfg

/-- Settles O8: no meaning stops, and a booted core with a legal configuration meets none of the model's stops. -/
theorem everyStepCompletes : Obligations.EveryStepCompletes := by
  intro s hl hb
  obtain ⟨t, ht⟩ := step_completes hl hb
  exact ⟨t, ht, step_keeps_cfg ht, step_keeps_booted ht hb⟩

/-! ### Sample words, and the terms that no word encodes -/

/-- Settles O4: each word is a closed term, which the decoder evaluates. -/
theorem sampleWordsDecode : Obligations.SampleWordsDecode := ⟨rfl, rfl, rfl, rfl, rfl, rfl, rfl, rfl, rfl⟩

/-- Settles O37: the meanings check `x` before they move anything. -/
theorem illFormedFlagStorageRaises : Obligations.IllFormedFlagStorageRaises := by
  intro x s hx
  have hill : ¬ x.toNat ≤ 7 := Nat.not_le.2 hx
  exact ⟨⟨_, if_neg hill, raised_raiseError _ s⟩, ⟨_, if_neg hill, raised_raiseError _ s⟩⟩

end Sys2Proof.Proofs
end

section
/-! PROOFS. The family of control transfer, skips, immediates, index and random (spec/40_control_immediate.md), with the key skips
(spec/45_key_skip.md). -/

namespace Sys2Proof.Proofs

open Sys2Proof.Machine Sys2Proof.Safety

/-! ### Call and return (R102, R181) -/

theorem exec_call {nnn : Addr} {s : State} (hl : s.cfg.Legal)
    (hroom : s.sp.toNat + 2 * s.cfg.stackDepth ≠ s.cfg.stackTop.toNat) :
    exec (.call nnn) s = .next (setPc (push s s.pc) nnn.toNat) := if_neg (mt (sp_eq_stackFull hl).1 hroom)

theorem exec_ret {ign : Nibble} {s : State} (hempty : s.sp ≠ s.cfg.stackTop) :
    exec (.ret ign) s = .next (setPc { s with sp := s.sp + 2 } (popped s).toNat) := if_neg hempty

theorem memRead_setPc (s : State) (t a : Nat) : memRead (setPc s t) a = memRead s a := rfl

theorem setPc_pc_eq {t : Nat} {w : Word} (h : t % 4096 = w.toNat) (s : State) : (setPc s t).pc = w :=
  BitVec.eq_of_toNat_eq ((toNat_setPc s t).trans h)

theorem popped_setPc (s : State) (t : Nat) : popped (setPc s t) = popped s := rfl

theorem toNat_highByte (w : Word) : (w.extractLsb' 8 8).toNat = w.toNat / 256 := by
  have := w.isLt
  rw [BitVec.extractLsb'_toNat, Nat.shiftRight_eq_div_pow]; omega

theorem toNat_lowByte (w : Word) : (w.extractLsb' 0 8).toNat = w.toNat % 256 := by
  rw [BitVec.extractLsb'_toNat, Nat.shiftRight_zero]

/-- The two bytes of a push lie at two addresses, wherever `SP` points (R64). -/
theorem toNat_mod_ne_sub_one (w : Word) : w.toNat % 4096 ≠ (w - 1).toNat % 4096 := by
  rw [BitVec.toNat_sub, show (1 : Word).toNat = 1 from rfl]; omega

theorem memRead_push_high {s : State} (w : Word) {a : Nat} (ha : a % 4096 = s.sp.toNat % 4096) (h : MemCanonical s) :
    memRead (push s w) a = w.extractLsb' 8 8 := by
  rw [memRead_push w a h, ha, if_neg (toNat_mod_ne_sub_one s.sp), if_pos rfl]

theorem memRead_push_low {s : State} (w : Word) {a : Nat} (ha : a % 4096 = (s.sp - 1).toNat % 4096) (h : MemCanonical s) :
    memRead (push s w) a = w.extractLsb' 0 8 := by
  rw [memRead_push w a h, if_pos ha]

/-- A pop reads the word that was pushed just before, even where the stack wraps around the end of memory. -/
theorem toNat_popped_push {s : State} (w : Word) (h : MemCanonical s) : (popped (push s w)).toNat = w.toNat := by
  have hhigh : ((push s w).sp.toNat + 2) % 4096 = s.sp.toNat % 4096 := by
    rw [push_sp, BitVec.toNat_sub, show (2 : Word).toNat = 2 from rfl]; omega
  have hlow : ((push s w).sp.toNat + 1) % 4096 = (s.sp - 1).toNat % 4096 := by
    rw [push_sp, BitVec.toNat_sub, BitVec.toNat_sub, show (2 : Word).toNat = 2 from rfl, show (1 : Word).toNat = 1 from rfl]
    omega
  rw [toNat_popped, memRead_push_high w hhigh h, memRead_push_low w hlow h, toNat_highByte, toNat_lowByte]
  omega

/-- After a push onto a stack that lies in its region, the stack is not empty (R28, R29). -/
theorem push_sp_ne_stackTop {s : State} (w : Word) (hl : s.cfg.Legal) (hs : SpInStack s) :
    (push s w).sp ≠ (push s w).cfg.stackTop := by
  obtain ⟨-, hbase, -⟩ := hl
  obtain ⟨k, hk, htop⟩ := hs
  rw [push_sp, push_cfg, ne_eq, ← BitVec.toNat_inj, BitVec.toNat_sub, show (2 : Word).toNat = 2 from rfl]
  omega

/-- Settles O14: a push writes the two bytes at `SP` and `SP - 1`, and the jump after it touches no memory. -/
theorem callPushesReturnAddress : Obligations.CallPushesReturnAddress := by
  intro nnn s hl hm hroom
  refine ⟨_, exec_call hl hroom, ?high, ?low, fun a hhigh hlow => ?others, rfl, ?jump, ?frame⟩
  case high => rw [memRead_setPc, memRead_push_high _ rfl hm, toNat_highByte]
  case low => rw [memRead_setPc, memRead_push_low _ rfl hm, toNat_lowByte]
  case others => rw [memRead_setPc, memRead_push _ a hm, if_neg hlow, if_neg hhigh]
  case jump => rw [toNat_setPc, Nat.mod_eq_of_lt nnn.isLt]
  case frame => exact ((sameBut_push s s.pc).mono (by decide)).trans ((sameBut_setPc _ _).mono (by decide))

/-- Settles O18: the return pops the address that the call pushed, and the two moves of `SP` cancel. -/
theorem callThenRetRestores : Obligations.CallThenRetRestores := by
  intro nnn ign s hl hm hpc hs hroom
  have hempty : (setPc (push s s.pc) nnn.toNat).sp ≠ (setPc (push s s.pc) nnn.toNat).cfg.stackTop :=
    push_sp_ne_stackTop s.pc hl hs
  have hpop : (popped (setPc (push s s.pc) nnn.toNat)).toNat % 4096 = s.pc.toNat := by
    rw [popped_setPc, toNat_popped_push s.pc hm, Nat.mod_eq_of_lt hpc]
  have hsp : (push s s.pc).sp + 2 = s.sp := BitVec.sub_add_cancel s.sp 2
  refine ⟨_, exec_call hl hroom, _, exec_ret hempty, setPc_pc_eq hpop _, hsp, ?_⟩
  apply SameBut.of_fields <;> simp [setPc_pc_eq hpop]

/-! ### Jumps (R101, R110) -/

/-- Settles O13: both jumps are one write of `PC`; a 12-bit address is below 4096 as it stands. -/
theorem jumpsSetPc : Obligations.JumpsSetPc := fun nnn s =>
  ⟨⟨_, rfl, (toNat_setPc s _).trans (Nat.mod_eq_of_lt nnn.isLt), sameBut_setPc s _⟩,
    ⟨_, rfl, toNat_setPc s _, sameBut_setPc s _⟩⟩

/-! ### Skips (R100, R103-R105, R108, R220-R222) -/

theorem skips_of_iff {P : Prop} {b : Bool} (h : b = true ↔ P) (s : State) : Skips P s (skipIf b s) :=
  propext h ▸ skips_skipIf b s

/-- Settles O19: each skip is taken on the Boolean test of its comparison. -/
theorem registerSkips : Obligations.RegisterSkips := fun _ _ _ _ s =>
  ⟨⟨_, rfl, skips_of_iff beq_iff_eq s⟩, ⟨_, rfl, skips_of_iff bne_iff_ne s⟩,
    ⟨_, rfl, skips_of_iff beq_iff_eq s⟩, ⟨_, rfl, skips_of_iff bne_iff_ne s⟩⟩

theorem toNat_lowNibble (b : Byte) : (lowNibble b).toNat = b.toNat % 16 := by
  rw [lowNibble, BitVec.extractLsb'_toNat, Nat.shiftRight_zero]

/-- The key that the low nibble of the register names (R222). -/
theorem keyHeld_eq (s : State) (x : Nibble) : keyHeld s x = s.keys.getLsbD ((getV s x).toNat % 16) := by
  rw [keyHeld, toNat_lowNibble]

/-- Settles O20: the skips test one held state and its negation. -/
theorem keySkips : Obligations.KeySkips := by
  intro x s
  rw [← keyHeld_eq]
  exact ⟨⟨_, rfl, skips_of_iff Iff.rfl s⟩, ⟨_, rfl, skips_of_iff (by rw [Bool.not_eq_true']) s⟩⟩

/-! ### Register loads, immediates and random (R106, R107, R111, R112, R131, R150) -/

/-- Settles O21: each load is one write of a register, of the byte its source holds. -/
theorem registerLoads : Obligations.RegisterLoads := fun _ _ _ s =>
  ⟨⟨_, rfl, setsReg_setV s _ _⟩, ⟨_, rfl, setsReg_setV s _ _⟩, ⟨_, rfl, setsReg_setV s _ _⟩⟩

/-- Settles O22: the sum of two bytes wraps by itself, and it is the one thing written. -/
theorem addImmediateWraps : Obligations.AddImmediateWraps := fun x kk s =>
  ⟨_, rfl, BitVec.toNat_add (getV s x) kk ▸ setsReg_setV s x _⟩

/-- Settles O30: the register written is the drawn byte masked; the draw counter is read before it advances. -/
theorem randomMaskedByImmediate : Obligations.RandomMaskedByImmediate := by
  intro x kk s
  obtain ⟨-, hothers, -⟩ := setsReg_setV { s with draws := s.draws + 1 } x (Config.rngByte s.draws &&& kk)
  refine ⟨_, rfl, fun k => ?_, rfl, hothers, exec_writes (i := .rnd x kk) rfl⟩
  rw [getV_setV, if_pos rfl, BitVec.getLsbD_and]

/-! ### The index register (R109, R154) -/

/-- Settles O28: both write `I` alone; a 12-bit address and a byte widen to 16 bits without loss. -/
theorem indexLoadAndAdd : Obligations.IndexLoadAndAdd := by
  refine fun nnn x s => ⟨⟨_, rfl, ?_, exec_writes (i := .ldINnn nnn) rfl⟩, ⟨_, rfl, ?_, exec_writes (i := .addIVx x) rfl⟩⟩
  · exact BitVec.toNat_setWidth_of_le (by decide)
  · rw [BitVec.toNat_add, BitVec.toNat_setWidth_of_le (by decide)]

end Sys2Proof.Proofs
end

section
/-! PROOFS. The family of the arithmetic/logic instructions (spec/41_alu.md). -/

namespace Sys2Proof.Proofs

open Sys2Proof.Machine Sys2Proof.Safety

/-! ### Flags as numbers (R135-R139, R141) -/

theorem toNat_carryFlag (a b : Byte) : (carryFlag a b).toNat = if 256 ≤ a.toNat + b.toNat then 1 else 0 := by
  rw [carryFlag, toNat_flagByte]; simp only [decide_eq_true_eq]

theorem toNat_notBorrowFlag (a b : Byte) : (notBorrowFlag a b).toNat = if b.toNat ≤ a.toNat then 1 else 0 := by
  rw [notBorrowFlag, toNat_flagByte]; simp only [decide_eq_true_eq]

/-- A flag that is one bit of a byte is the number of that bit. -/
theorem toNat_flagByte_getLsbD (a : Byte) (k : Nat) : (flagByte (a.getLsbD k)).toNat = a.toNat / 2 ^ k % 2 := by
  rw [toNat_flagByte, BitVec.getLsbD, Nat.testBit_eq_decide_div_mod_eq]
  simp only [decide_eq_true_eq]
  split <;> omega

theorem toNat_shrOutFlag (a : Byte) : (shrOutFlag a).toNat = a.toNat % 2 := by
  rw [shrOutFlag, toNat_flagByte_getLsbD, Nat.pow_zero, Nat.div_one]

/-- Bit 7 is the byte's highest, so that nothing lies above it. -/
theorem toNat_shlOutFlag (a : Byte) : (shlOutFlag a).toNat = a.toNat / 128 := by
  have := a.isLt
  rw [shlOutFlag, toNat_flagByte_getLsbD]; omega

/-! ### Results as numbers (R136-R139) -/

theorem toNat_sub_byte (a b : Byte) : (a - b).toNat = (256 + a.toNat - b.toNat) % 256 := by
  have := b.isLt
  rw [BitVec.toNat_sub]; omega

theorem toNat_shr_one (a : Byte) : (a >>> 1).toNat = a.toNat / 2 := by
  rw [BitVec.toNat_ushiftRight, Nat.shiftRight_one]

theorem toNat_shl_one (a : Byte) : (a <<< 1).toNat = a.toNat * 2 % 256 := by
  rw [BitVec.toNat_shiftLeft, Nat.shiftLeft_eq, Nat.pow_one]

/-! ### Logic operations (R132-R134) -/

/-- A write of a byte to `V[x]`, with the byte given bit by bit. -/
theorem setsBits_setV (s : State) (x : Nibble) {b : Byte} {f : Nat → Bool} (hb : ∀ k, b.getLsbD k = f k) :
    (∀ k, (getV (setV s x b) x).getLsbD k = f k) ∧ RegsBut (· = x) s (setV s x b) ∧ SameBut [.v] s (setV s x b) := by
  obtain ⟨-, hothers, hframe⟩ := setsReg_setV s x b
  refine ⟨fun k => ?_, hothers, hframe⟩
  rw [getV_setV, if_pos rfl, hb]

/-- Settles O23: each operation is one write of a register, of the word operation on the two operands. -/
theorem logicOperations : Obligations.LogicOperations := fun x _ s =>
  ⟨⟨_, rfl, setsBits_setV s x fun _ => BitVec.getLsbD_or⟩, ⟨_, rfl, setsBits_setV s x fun _ => BitVec.getLsbD_and⟩,
    ⟨_, rfl, setsBits_setV s x fun _ => BitVec.getLsbD_xor⟩⟩

/-! ### Arithmetic and shifts (R135-R139) -/

/-- A result and then a flag written, with both bytes given as numbers. -/
theorem setsRegAndFlag_of_toNat (s : State) (x : Nibble) {b c : Byte} {r f : Nat} (hr : b.toNat = r) (hf : c.toNat = f) :
    SetsRegAndFlag x r f s (setVFlag s x b c) :=
  hr ▸ hf ▸ setsRegAndFlag_setVFlag s x b c

/-- Settles O24: the sum of two bytes wraps by itself, and the carry is written after it. -/
theorem addSetsCarry : Obligations.AddSetsCarry := fun x _ s =>
  ⟨_, rfl, setsRegAndFlag_of_toNat s x (BitVec.toNat_add ..) (toNat_carryFlag ..)⟩

/-- Settles O25: the two subtractions exchange minuend and subtrahend, in the difference and in the flag. -/
theorem subtractsSetNotBorrow : Obligations.SubtractsSetNotBorrow := fun x _ s =>
  ⟨⟨_, rfl, setsRegAndFlag_of_toNat s x (toNat_sub_byte ..) (toNat_notBorrowFlag ..)⟩,
    ⟨_, rfl, setsRegAndFlag_of_toNat s x (toNat_sub_byte ..) (toNat_notBorrowFlag ..)⟩⟩

/-- Settles O26: a shift by one halves or doubles the byte, and the bit it drops is the remainder or the carry. -/
theorem shiftsSetBitOut : Obligations.ShiftsSetBitOut := fun x _ s =>
  ⟨⟨_, rfl, setsRegAndFlag_of_toNat s x (toNat_shr_one _) (toNat_shrOutFlag _)⟩,
    ⟨_, rfl, setsRegAndFlag_of_toNat s x (toNat_shl_one _) (toNat_shlOutFlag _)⟩⟩

/-! ### Unassigned codes (R85, R140) -/

/-- The entries of R85's table that name no operation. -/
theorem exec_table8_nop : ∀ p ∈ table8, p.1.toNat ∈ [0x8, 0x9, 0xA, 0xB, 0xC, 0xD, 0xF] →
    ∀ w s, exec (p.2 w) s = .next s := by
  simp [table8, selectors, exec, execNop8x8, execNop8x9, execNop8xA, execNop8xB, execNop8xC, execNop8xD, noOperation]

theorem exec_decodeFamily8_nop {w : Word} (h : (fieldN w).toNat ∈ [0x8, 0x9, 0xA, 0xB, 0xC, 0xD, 0xF]) (s : State) :
    exec (decodeFamily8 w) s = .next s := by
  rw [decodeFamily8]
  cases hpick : pick (fieldN w) table8 with
  | some build => exact exec_table8_nop _ (mem_of_pick hpick) h w s
  | none => rfl

/-- Settles O27: family 8 decodes every word of it, and what an unassigned code decodes to leaves the state alone. -/
theorem nop8ChangesNothing : Obligations.Nop8ChangesNothing := by
  refine ⟨fun w hop hn => ?_, fun _ _ => ⟨rfl, rfl, rfl, rfl, rfl, rfl, rfl⟩⟩
  have hop8 : fieldOp w = 0x8 := BitVec.eq_of_toNat_eq ((toNat_fieldOp w).trans hop)
  rw [← toNat_fieldN] at hn
  exact ⟨_, decode_of_op8 hop8, exec_decodeFamily8_nop hn⟩

end Sys2Proof.Proofs
end

section
/-! PROOFS. The family of timers, index, BCD and register blocks (spec/42_misc_f.md). -/

namespace Sys2Proof.Proofs

open Sys2Proof.Machine Sys2Proof.Safety

/-! ### The glyph address (R155) -/

/-- The last glyph of either font starts far below the end of the 16-bit range, so that no address is cut off. -/
theorem toNat_ofNat_glyphAddr (m : Mode) (b : Byte) :
    (BitVec.ofNat 16 (glyphAddr m (lowNibble b))).toNat =
      match m with
      | .standard => b.toNat % 16 * 5
      | .extended => b.toNat % 16 * 10 + 0x050 := by
  rw [BitVec.toNat_ofNat]
  cases m <;> simp only [glyphAddr, fontGlyph, fontBase, extFontGlyph, extFontBase, toNat_lowNibble] <;> omega

/-- Settles O29: `I` alone is written, with the address of the mode that is in effect. -/
theorem glyphAddress : Obligations.GlyphAddress := by
  intro x s
  have haddr := toNat_ofNat_glyphAddr s.mode (getV s x)
  refine ⟨_, rfl, fun hstd => ?_, fun hext => ?_, exec_writes (i := .ldFVx x) rfl⟩
  · rw [hstd] at haddr ⊢; exact haddr
  · rw [hext] at haddr ⊢; exact haddr

/-! ### The key wait (R151) -/

theorem exec_ldVxK_of_valid {s : State} (x : Nibble) (h : s.kjpValid = true) :
    exec (.ldVxK x) s = .next (setV s x (s.kjpKey.setWidth 8)) := if_pos h

theorem exec_ldVxK_of_not_valid {s : State} (x : Nibble) (h : s.kjpValid = false) :
    exec (.ldVxK x) s = .next (setPc s (s.pc - 2).toNat) := if_neg (Bool.eq_false_iff.1 h)

/-- The rewind is taken in 16 bits and reduced to 12, which is a step back mod 4096 (R24). -/
theorem toNat_sub_two_mod (w : Word) : (w - 2).toNat % 4096 = (w.toNat + 4094) % 4096 := by
  rw [BitVec.toNat_sub, show (2 : Word).toNat = 2 from rfl]; omega

/-- Settles O31: with a signal one register is written; without one `PC` alone goes back over the advance of the fetch. -/
theorem keyWait : Obligations.KeyWait := by
  refine fun x s => ⟨fun hkey => ?_, fun hnone => ?_⟩
  · have hwide : (s.kjpKey.setWidth 8).toNat = s.kjpKey.toNat := BitVec.toNat_setWidth_of_le (by decide)
    exact ⟨_, exec_ldVxK_of_valid x hkey, hwide ▸ setsReg_setV s x _⟩
  · refine ⟨_, exec_ldVxK_of_not_valid x hnone, ?_, fun hia hpc => setPc_pc_eq ?_ s, sameBut_setPc s _⟩
    · rw [toNat_setPc, toNat_sub_two_mod]
    · rw [toNat_sub_two_mod, hpc]; omega

/-! ### The timers (R152, R153) -/

theorem exec_ldStVx_of_zero {x : Nibble} {s : State} (h : getV s x = 0) :
    exec (.ldStVx x) s = .next { s with st := getV s x } := if_pos h

theorem exec_ldStVx_of_ne_zero {x : Nibble} {s : State} (h : getV s x ≠ 0) :
    exec (.ldStVx x) s = .next (soundOn { s with st := getV s x }) := if_neg h

/-- Settles O32: a zero write of `ST` has a frame of its own, narrower than what the instruction may write on its other path. -/
theorem timerWrites : Obligations.TimerWrites := by
  refine fun x s => ⟨⟨_, rfl, rfl, exec_writes (i := .ldDtVx x) rfl⟩, fun hne => ?nonzero, fun hzero => ?zero⟩
  case nonzero =>
    have hexec := exec_ldStVx_of_ne_zero hne
    exact ⟨_, hexec, rfl, rfl, rfl, exec_writes hexec⟩
  case zero =>
    refine ⟨_, exec_ldStVx_of_zero hzero, hzero, ?_⟩
    apply SameBut.of_fields <;> simp

/-! ### Memory blocks (R156, R157) -/

/-- A run of bytes stored, with their number and their values given as numbers. -/
theorem stores_of_toNat {s : State} (a : Nat) {bs : List Byte} {n : Nat} {f : Nat → Nat} (hlen : bs.length = n)
    (hn : n ≤ 4096) (hf : ∀ k, k < n → (bs.getD k 0).toNat = f k) (h : MemCanonical s) :
    Stores a n f s (memWriteBytes s a bs) := by
  subst hlen
  obtain ⟨hbytes, hothers⟩ := stores_memWriteBytes a bs hn h
  exact ⟨fun k hk => (hbytes k hk).trans (hf k hk), hothers⟩

/-- The digits of a byte, as numbers: each is below 256 and fits its byte. -/
theorem toNat_bcdDigits (b : Byte) {k : Nat} (hk : k < 3) :
    ((bcdDigits b).getD k 0).toNat =
      if k = 0 then b.toNat / 100 else if k = 1 then b.toNat / 10 % 10 else b.toNat % 10 := by
  have := b.isLt
  obtain rfl | rfl | rfl : k = 0 ∨ k = 1 ∨ k = 2 := by omega
  all_goals exact Nat.mod_eq_of_lt (by omega)

/-- Settles O33: the three digits are one run of bytes from `I` on. -/
theorem bcdStore : Obligations.BcdStore := fun x s hm =>
  ⟨_, rfl, stores_of_toNat s.idx.toNat rfl (by decide) (fun _ hk => toNat_bcdDigits (getV s x) hk) hm,
    sameBut_memWriteBytes s _ _⟩

/-- The bytes that a block store writes: `V0` to `Vx`, one after another. -/
theorem getD_blockRegs_map (g : Nat → Byte) (x : Nibble) {k : Nat} (hk : k < x.toNat + 1) :
    ((blockRegs x).map g).getD k 0 = g k := by
  rw [blockRegs, List.getD_eq_getElem _ _ (by simpa using hk), List.getElem_map, List.getElem_range]

/-- Settles O34: the registers are one run of at most 16 bytes from `I` on. -/
theorem registerBlockStore : Obligations.RegisterBlockStore := by
  intro x s hm
  have hlen : ((blockRegs x).map fun i => getV s (regOf i)).length = x.toNat + 1 := by simp [blockRegs]
  exact ⟨_, rfl, stores_of_toNat s.idx.toNat hlen (by omega) (fun k hk => congrArg _ (getD_blockRegs_map _ x hk)) hm,
    sameBut_memWriteBytes s _ _⟩

/-! ### The register block load (R158) -/

/-- Settles O35: every byte is read from the memory that the instruction found, since the load writes registers only. -/
theorem registerBlockLoad : Obligations.RegisterBlockLoad := by
  intro x s
  have hload := getV_blockLoad (fun i => memRead s (idxPlus s i)) (x.toNat + 1) (by omega) s
  refine ⟨_, rfl, fun j hj => ?_, fun j hj => ?_, sameBut_blockLoad _ _ s⟩
  · exact (hload j).trans (if_pos (by omega))
  · exact (hload j).trans (if_neg fun hlt => hj (Nat.le_of_lt_succ hlt))

end Sys2Proof.Proofs
end

section
/-! PROOFS. The family of the system and display-control instructions (spec/43_system_display.md). -/

namespace Sys2Proof.Proofs

open Sys2Proof.Machine Sys2Proof.Safety

/-! ### The close of a slice (R243, R245) -/

theorem closeStep_of_left {s : State} (hrun : s.run = .running) (hleft : s.sliceLeft ≠ 0) :
    closeStep s = { s with phase := .inSlice } := by
  rw [closeStep, if_pos hrun, if_neg hleft]

theorem closeStep_of_spent {s : State} (hrun : s.run = .running) (hspent : s.sliceLeft = 0) :
    closeStep s = { endOfSlice s with phase := .between } := by
  rw [closeStep, if_pos hrun, if_pos hspent]

/-- Timers that stand at 0 stay there, and signal nothing: what is left of the end of a slice is the callback and the key scan. -/
theorem endOfSlice_of_timers_zero {s : State} (hdt : s.dt = 0) (hst : s.st = 0) :
    endOfSlice s = keyScan (interruptTick s) := by
  have hdelay : tickDelay s = s := if_pos hdt
  have hsound : tickSound s = s := if_pos hst
  rw [endOfSlice, hdelay, hsound]

/-- The close of a step moves no timer that stands at 0, and leaves the sound as it was (R246, R251). -/
theorem closeStep_of_timers_zero {s : State} (hdt : s.dt = 0) (hst : s.st = 0) :
    (closeStep s).dt = 0 ∧ (closeStep s).st = 0 ∧ (closeStep s).sound = s.sound := by
  obtain ⟨p, e⟩ | e := closeStep_cases s <;> rw [e]
  · exact ⟨hdt, hst, rfl⟩
  · simp [endOfSlice_of_timers_zero, hdt, hst]

/-! ### `RET` (R181) -/

/-- Settles O16: the jump is to the word popped from the old `SP`, its high byte above its low byte, and no memory is written. -/
theorem retPopsReturnAddress : Obligations.RetPopsReturnAddress := by
  intro ign s hempty
  refine ⟨_, exec_ret hempty, ?_, rfl, ?_⟩
  · rw [toNat_setPc, toNat_popped]
  · apply SameBut.of_fields <;> simp

/-! ### `CLS`, `LOW` and `HIGH` (R180, R186, R187) -/

/-- Settles O38: all three leave the dark buffer, and a switch of the mode writes the mode beside it. -/
theorem clearAndModeSwitch : Obligations.ClearAndModeSwitch := fun _ s =>
  ⟨⟨_, rfl, physByte_darkPhys, sameBut_clearDisplay s⟩,
    ⟨_, rfl, rfl, physByte_darkPhys, sameBut_switchMode s .standard⟩,
    ⟨_, rfl, rfl, physByte_darkPhys, sameBut_switchMode s .extended⟩⟩

/-! ### `EXIT` (R185, R280, R286) -/

/-- Settles O43: `EXIT` is the reset of the core, item by item, and what the list leaves out is the frame of that reset. -/
theorem exitResets : Obligations.ExitResets := fun _ s =>
  ⟨_, rfl, getV_doReset s, doReset_idx s, doReset_pc s, doReset_sp s, doReset_dt s, doReset_st s, doReset_mode s,
    physByte_darkPhys, doReset_keys s, doReset_prevKeys s, doReset_kjpValid s, doReset_kjpKey s, doReset_errReason s,
    doReset_errOpcode s, doReset_errPc s, doReset_sound s, doReset_run s, doReset_events s, doReset_wasReset s,
    sameBut_doReset s⟩

/-- The state after `EXIT` and the unit of budget that it spends, before the slice is closed or goes on. -/
def exitedState (s : State) : State :=
  { doReset (entryState s) with sliceLeft := (entryState s).sliceLeft - 1 }

theorem step_of_exit {s : State} {ign : Nibble} (hruns : RunsInstruction s) (hb : Booted s)
    (h : decode (entryState s).ir = .ok (.exit ign)) : step s = .next (closeStep (exitedState s)) :=
  stepRunsDecodedInstruction s (.exit ign) hruns hb h

/-- With budget left the slice goes on, and only the reset has signalled anything. -/
theorem closeStep_exitedState_of_left {s : State} (hleft : 1 < (entryState s).sliceLeft) :
    (closeStep (exitedState s)).phase = .inSlice ∧ (closeStep (exitedState s)).events = [.soundOff] ∧
      (closeStep (exitedState s)).hookKeys = s.hookKeys := by
  have hbudget : (exitedState s).sliceLeft ≠ 0 := Nat.sub_ne_zero_of_lt hleft
  rw [closeStep_of_left rfl hbudget]
  exact ⟨rfl, rfl, rfl⟩

/-- Where the last unit is spent, the end of the slice adds the callback to what the reset signalled. -/
theorem closeStep_exitedState_of_last {s : State} (hlast : (entryState s).sliceLeft = 1) :
    (closeStep (exitedState s)).phase = .between ∧ (closeStep (exitedState s)).events = [.soundOff, .interruptTick] ∧
      (closeStep (exitedState s)).hookKeys = s.hookKeys.tail := by
  have hspent : (exitedState s).sliceLeft = 0 := Nat.sub_eq_zero_of_le hlast.le
  obtain ⟨hevents, hhook, -⟩ := interruptTick_writes (exitedState s)
  rw [closeStep_of_spent rfl hspent, endOfSlice_of_timers_zero rfl rfl]
  exact ⟨rfl, (keyScan_events _).trans hevents, (keyScan_hookKeys _).trans hhook⟩

/-- Settles O50: the close of the step keeps what the reset has set, the timers too, since they stand at 0; the budget before the
instruction says which close it is. -/
theorem exitKeepsSliceBudget : Obligations.ExitKeepsSliceBudget := by
  intro s ign hruns hb h
  obtain ⟨hdt, hst, hsound⟩ := closeStep_of_timers_zero (s := exitedState s) rfl rfl
  exact ⟨_, step_of_exit hruns hb h, closeStep_pc _, closeStep_run _, closeStep_sliceLeft _, hdt, hst, hsound,
    memRead_congr (closeStep_cfg _) (closeStep_mem _), getRpl_congr (closeStep_rpl _),
    closeStep_exitedState_of_left, closeStep_exitedState_of_last⟩

end Sys2Proof.Proofs
end

section
/-! PROOFS. The family of the sprite draw (spec/44_sprite_draw.md): what a draw does to the logical pixels, and the same draw twice. -/

namespace Sys2Proof.Proofs

open Sys2Proof.Machine Sys2Proof.Safety

/-! ### Pixels and their cells (R39-R41) -/

/-- A logical pixel is read, in every buffer, from the cell at the origin of its block. -/
theorem exists_origin_of_pixel (m : Mode) {c r : Nat} (hc : c < gridCols m) (hr : r < gridRows m) :
    ∃ r' c', r' < 64 ∧ c' < 128 ∧ cellRow m r' = r ∧ cellCol m c' = c ∧ ∀ p, pixelLit m p c r = (physByte p r' c' == 0xFF) := by
  cases m with
  | standard =>
    have hc : c < 64 := hc
    have hr : r < 32 := hr
    exact ⟨2 * r, 2 * c, by omega, by omega, Nat.mul_div_cancel_left r Nat.two_pos, Nat.mul_div_cancel_left c Nat.two_pos, fun _ => rfl⟩
  | extended => exact ⟨r, c, hr, hc, rfl, rfl, fun _ => rfl⟩

/-- Outside the buffer there is no cell, and the host reads nothing lit there. -/
theorem physByte_of_outside (p : Phys) {r c : Nat} (h : ¬ (r < 64 ∧ c < 128)) : physByte p r c = 0x00 := by
  have hdark : physLit p r c = false := by
    by_cases hr : r < 64
    · exact BitVec.getLsbD_of_ge _ _ (by omega)
    · rw [physLit, rowAt, Vector.getElem?_eq_none (by omega)]; exact BitVec.getLsbD_zero
  rw [physByte, hdark]; rfl

/-- Where the blocks are equal, the pixels determine every byte of the buffer. -/
theorem physByte_of_blocksEqual {s : State} (hs : BlocksEqual s) {r c : Nat} (hr : r < 64) (hc : c < 128) :
    physByte s.phys r c = if pixelLit s.mode s.phys (cellCol s.mode c) (cellRow s.mode r) then 0xFF else 0x00 := by
  obtain ⟨hext, hstd⟩ := pix_eq_physLit s.mode s.phys r c
  rw [pixelLit_eq]
  cases hm : s.mode with
  | standard => rw [hs hm r c hr hc, ← hm, hstd hm, physByte]
  | extended => rw [← hm, hext hm, physByte]

/-! ### The state after a draw (R200, R203) -/

/-- The state that `DRW Vx, Vy, n` leaves. -/
def afterDraw (s : State) (x y n : Nibble) : State :=
  setV { s with phys := (drawn s x y n).phys } 0xF (noCollisionFlag (drawn s x y n).hit)

theorem exec_drw_afterDraw (x y n : Nibble) (s : State) : exec (.drw x y n) s = .next (afterDraw s x y n) := exec_drw x y n s

theorem afterDraw_mode (s : State) (x y n : Nibble) : (afterDraw s x y n).mode = s.mode := rfl

theorem afterDraw_phys (s : State) (x y n : Nibble) : (afterDraw s x y n).phys = (drawn s x y n).phys := rfl

theorem getV_afterDraw {j : Nibble} (hj : j ≠ 0xF#4) (s : State) (x y n : Nibble) : getV (afterDraw s x y n) j = getV s j :=
  (getV_setV ..).trans (if_neg hj)

theorem getV_F_afterDraw (s : State) (x y n : Nibble) : getV (afterDraw s x y n) 0xF = 0 ↔ Collides s x y n := by
  obtain ⟨hlit, hdark⟩ := noCollisionFlag_drawn s x y n
  have hflag : getV (afterDraw s x y n) 0xF = noCollisionFlag (drawn s x y n).hit := (getV_setV ..).trans (if_pos rfl)
  rw [hflag]
  refine ⟨fun h => ?_, hlit⟩
  by_contra hnot
  exact absurd (h.symm.trans (hdark hnot)) (by decide)

/-- A draw turns a pixel that it toggles to its opposite. -/
theorem pixelLit_afterDraw_of_toggles {s : State} {x y n : Nibble} {c r : Nat} (hc : c < gridCols s.mode) (hr : r < gridRows s.mode)
    (h : Toggles s x y n c r) : pixelLit s.mode (afterDraw s x y n).phys c r = !pixelLit s.mode s.phys c r := by
  obtain ⟨r', c', hr', hc', rfl, rfl, hread⟩ := exists_origin_of_pixel s.mode hc hr
  rw [hread, afterDraw_phys, physByte_drawn_of_toggles hr' hc' h]
  cases pixelLit s.mode s.phys (cellCol s.mode c') (cellRow s.mode r') <;> rfl

/-- A draw leaves every other pixel. -/
theorem pixelLit_afterDraw_of_not_toggles {s : State} {x y n : Nibble} {c r : Nat} (hc : c < gridCols s.mode)
    (hr : r < gridRows s.mode) (h : ¬ Toggles s x y n c r) :
    pixelLit s.mode (afterDraw s x y n).phys c r = pixelLit s.mode s.phys c r := by
  obtain ⟨r', c', hr', hc', rfl, rfl, hread⟩ := exists_origin_of_pixel s.mode hc hr
  rw [hread, hread, afterDraw_phys, physByte_drawn_of_not_toggles hr' hc' h]

theorem blocksEqual_afterDraw {s : State} (x y n : Nibble) (hs : BlocksEqual s) : BlocksEqual (afterDraw s x y n) :=
  blocksEqual_drawn (afterDraw_phys s x y n) (afterDraw_mode s x y n) hs

/-! ### The same draw again (R200, R203) -/

/-- A draw writes neither the sprite nor its place, unless a coordinate stands in `VF`: the same draw again toggles the same pixels. -/
theorem toggles_afterDraw {x y : Nibble} (hx : x ≠ 0xF#4) (hy : y ≠ 0xF#4) (s : State) (n : Nibble) (c r : Nat) :
    Toggles (afterDraw s x y n) x y n c r ↔ Toggles s x y n c r := by
  have hmem : ∀ a, memRead (afterDraw s x y n) a = memRead s a := memRead_congr rfl rfl
  have hidx : (afterDraw s x y n).idx = s.idx := rfl
  simp only [Toggles, spriteRow, spriteCol, getV_afterDraw hx, getV_afterDraw hy, afterDraw_mode, hmem, hidx]

theorem pixelLit_afterDraw_afterDraw {x y : Nibble} (hx : x ≠ 0xF#4) (hy : y ≠ 0xF#4) (s : State) (n : Nibble) {c r : Nat}
    (hc : c < gridCols s.mode) (hr : r < gridRows s.mode) :
    pixelLit s.mode (afterDraw (afterDraw s x y n) x y n).phys c r = pixelLit s.mode s.phys c r := by
  have hagain := toggles_afterDraw hx hy s n c r
  by_cases h : Toggles s x y n c r
  · calc
      _ = !pixelLit s.mode (afterDraw s x y n).phys c r := pixelLit_afterDraw_of_toggles (s := afterDraw s x y n) hc hr (hagain.2 h)
      _ = !!pixelLit s.mode s.phys c r := congrArg _ (pixelLit_afterDraw_of_toggles hc hr h)
      _ = pixelLit s.mode s.phys c r := Bool.not_not _
  · calc
      _ = pixelLit s.mode (afterDraw s x y n).phys c r := pixelLit_afterDraw_of_not_toggles (s := afterDraw s x y n) hc hr (mt hagain.1 h)
      _ = pixelLit s.mode s.phys c r := pixelLit_afterDraw_of_not_toggles hc hr h

/-- Equal blocks stay equal under both draws, so that the restored pixels give the bytes back. -/
theorem physByte_afterDraw_afterDraw {x y : Nibble} (hx : x ≠ 0xF#4) (hy : y ≠ 0xF#4) {s : State} (n : Nibble) (hs : BlocksEqual s)
    (r c : Nat) : physByte (afterDraw (afterDraw s x y n) x y n).phys r c = physByte s.phys r c := by
  by_cases hin : r < 64 ∧ c < 128
  · obtain ⟨hr, hc⟩ := hin
    have hcol : cellCol s.mode c < gridCols s.mode := gridCols_eq s.mode ▸ cellCol_lt s.mode hc
    have hrow : cellRow s.mode r < gridRows s.mode := gridRows_eq s.mode ▸ cellRow_lt s.mode hr
    have htwice : BlocksEqual (afterDraw (afterDraw s x y n) x y n) := blocksEqual_afterDraw x y n (blocksEqual_afterDraw x y n hs)
    rw [physByte_of_blocksEqual htwice hr hc, physByte_of_blocksEqual hs hr hc, afterDraw_mode, afterDraw_mode,
      pixelLit_afterDraw_afterDraw hx hy s n hcol hrow]
  · rw [physByte_of_outside _ hin, physByte_of_outside _ hin]

/-- The second draw turns a lit pixel dark exactly where the first lit a dark one. -/
theorem collides_afterDraw {x y : Nibble} (hx : x ≠ 0xF#4) (hy : y ≠ 0xF#4) (s : State) (n : Nibble) :
    Collides (afterDraw s x y n) x y n ↔
      ∃ c r, c < gridCols s.mode ∧ r < gridRows s.mode ∧ Toggles s x y n c r ∧ pixelLit s.mode s.phys c r = false := by
  simp only [Collides, afterDraw_mode, toggles_afterDraw hx hy]
  refine exists_congr fun c => exists_congr fun r => and_congr_right fun hc => and_congr_right fun hr => and_congr_right fun h => ?_
  rw [pixelLit_afterDraw_of_toggles hc hr h, Bool.not_eq_true']

/-- Settles O42: both draws toggle the same pixels, and a pixel toggled twice is itself again. -/
theorem drawTwiceRestores : Obligations.DrawTwiceRestores := fun x y n s hx hy =>
  ⟨_, exec_drw_afterDraw x y n s, _, exec_drw_afterDraw x y n _, fun _ _ => pixelLit_afterDraw_afterDraw hx hy s n,
    physByte_afterDraw_afterDraw hx hy n, (getV_F_afterDraw ..).trans (collides_afterDraw hx hy s n)⟩

end Sys2Proof.Proofs
end

section
/-! PROOFS. The family of errors, run states and the end of a slice (spec/60_exceptions.md R231-R255). -/

namespace Sys2Proof.Proofs

open Sys2Proof.Machine Sys2Proof.Safety

/-! ### Errors raised by an instruction and by an unknown word (R232-R235) -/

/-- Settles O15: the check for the full stack stands before the push. -/
theorem callOnFullStackRaises : Obligations.CallOnFullStackRaises := fun _ s hl hfull =>
  ⟨_, if_pos ((sp_eq_stackFull hl).2 hfull), raised_raiseError _ s⟩

/-- Settles O17: the check for the empty stack stands before the pop. -/
theorem retOnEmptyStackRaises : Obligations.RetOnEmptyStackRaises := fun _ s hempty =>
  ⟨_, if_pos hempty, raised_raiseError _ s⟩

/-- Settles O7: what the fetch writes, and then what the error writes. -/
theorem unknownWordRaises : Obligations.UnknownWordRaises := by
  intro s e hb h
  obtain ⟨hreason, hopcode, hpc, hevents, hhalt, hcontinue, hframe⟩ := raised_raiseError .unknownOpcode (fetch s)
  exact ⟨_, runInstr_of_error hb h, fetch_pc_toNat s, hreason, hopcode, hpc, hevents, hhalt, hcontinue,
    ((sameBut_fetch s).mono (by decide)).trans (hframe.mono (by decide))⟩

/-! ### The close of a slice (R243) -/

theorem closeStep_of_not_running {s : State} (hrun : s.run ≠ .running) : closeStep s = { s with phase := .between } := by
  rw [closeStep, if_neg hrun]

/-- Settles O6: the three closes of a step. -/
theorem stepClosesSlice : Obligations.StepClosesSlice := fun _ =>
  ⟨fun hrun hleft => closeStep_of_left hrun hleft.ne', closeStep_of_spent, closeStep_of_not_running⟩

/-- The state after an unknown word and the unit of budget that it spends, before the slice is closed or goes on. -/
def unknownState (s : State) : State :=
  { raiseError (entryState s) .unknownOpcode with sliceLeft := (entryState s).sliceLeft - 1 }

theorem step_of_unknown {s : State} {e : Unknown} (hruns : RunsInstruction s) (hb : Booted s)
    (h : decode (entryState s).ir = .error e) : step s = .next (closeStep (unknownState s)) := by
  rw [step_of_runs hruns, sliceStep, runInstr_of_error (s := atFetch s) hb h]
  rfl

theorem sameBut_unknownState (s : State) :
    SameBut [.run, .err, .events, .pc, .latches, .sliceLeft, .hostMoves] s (unknownState s) := by
  apply SameBut.of_fields <;> simp [unknownState, entryState]

theorem sameBut_setPhase (s : State) (p : Phase) : SameBut [.phase] s { s with phase := p } := by
  apply SameBut.of_fields <;> simp

/-- Settles O51: the error leaves the core halted, so the close of the step skips the end-of-slice sequence. -/
theorem haltEndsSliceAtOnce : Obligations.HaltEndsSliceAtOnce := by
  intro s e hruns hb hpolicy h
  have hhalted : (unknownState s).run = .halted := by
    obtain ⟨-, -, -, -, hhalt, -⟩ := raised_raiseError .unknownOpcode (entryState s)
    exact hhalt hpolicy
  have hclose : closeStep (unknownState s) = { unknownState s with phase := .between } :=
    closeStep_of_not_running (by rw [hhalted]; decide)
  exact ⟨_, (step_of_unknown hruns hb h).trans (congrArg _ hclose), hhalted, rfl, rfl, rfl, rfl, rfl, rfl, rfl, rfl,
    ((sameBut_unknownState s).mono (by decide)).trans ((sameBut_setPhase _ _).mono (by decide))⟩

/-! ### The run states (R242, R249, R255) -/

theorem startSlice_of_not_running {s : State} (hrun : s.run ≠ .running) : startSlice s = .next s := by
  rw [startSlice, if_neg hrun]

/-- Settles O10: either form of the host's `Slice` comes to the start of a slice, which checks `RUN` first. -/
theorem nothingExecutesUnlessRunning : Obligations.NothingExecutesUnlessRunning := by
  refine fun s hl hrun hp => ⟨fun hm => ?_, fun rest hm => ?_⟩
  · rw [step, coreStep, if_pos hl, hp, hm]
    exact startSlice_of_not_running hrun
  · rw [step, coreStep, if_pos hl, hp, hm]
    exact startSlice_of_not_running hrun

/-- `RUN` after an error is as it was, or `Halted` under the policy `Halt` (R232). -/
theorem raiseError_run_cases (s : State) (r : Reason) :
    (raiseError s r).run = s.run ∨ s.cfg.errPolicy = .halting ∧ (raiseError s r).run = .halted := by
  obtain ⟨-, -, -, -, hhalt, hcontinue, -⟩ := raised_raiseError r s
  cases hpolicy : s.cfg.errPolicy with
  | halting => exact .inr ⟨rfl, hhalt hpolicy⟩
  | continuing => exact .inl (hcontinue hpolicy)

/-- How one instruction, or an unknown word, can leave `RUN`: as it was, as an error leaves it, or as a reset does. -/
theorem runInstr_run {s t : State} (h : runInstr s = .next t) :
    t.run = s.run ∨ (∃ r ∈ [Reason.unknownOpcode, .stackOverflow, .stackUnderflow], t = raiseError (fetch s) r) ∨
      t.run = .running := by
  obtain ⟨-, ⟨i, -, he⟩ | ⟨e, -, rfl⟩⟩ := runInstr_cases h
  · obtain ⟨hrun, -⟩ | herror | rfl := exec_run he
    · exact .inl hrun
    · exact .inr (.inl herror)
    · exact .inr (.inr rfl)
  · exact .inr (.inl ⟨_, by decide, rfl⟩)

/-- Settles O11: of what a step can do, only an instruction that raises an error, the host's `Reset` and its `Stop` move `RUN`. -/
theorem runStateTransitions : Obligations.RunStateTransitions := by
  intro s t h hne
  obtain ⟨-, ⟨⟨-, hrun, -⟩, u, hu, rfl⟩ | ⟨-, -, rfl⟩ | ⟨-, -, rfl⟩ | ⟨m, rest, hp, -, hm, rfl⟩⟩ := step_cases h
  · rw [closeStep_run] at hne ⊢
    rw [closeStep_errReason]
    obtain hkept | ⟨r, hr, rfl⟩ | hreset := runInstr_run hu
    · exact absurd hkept hne
    · obtain hkept | ⟨hpolicy, hhalted⟩ := raiseError_run_cases (fetch (atFetch s)) r
      · exact absurd hkept hne
      · exact .inr (.inl ⟨hrun, hhalted, hpolicy, hr⟩)
    · exact absurd (hreset.trans hrun.symm) hne
  · exact absurd (closeStep_run _) hne
  · exact absurd rfl hne
  · have hhead : s.hostMoves.head? = some m := by rw [hm, List.head?_cons]
    cases m with
    | load image => exact absurd (sameBut_doLoad { s with events := [], hostMoves := rest } image .run (by decide)) hne
    | reset => exact .inl ⟨rfl, hp, hhead⟩
    | stop =>
      by_cases hrun : s.run = .running
      · refine .inr (.inr ⟨hrun, ?_, hp, hhead⟩)
        simp [hostMove, doStop_of_running, hrun]
      · refine absurd ?_ hne
        simp [hostMove, doStop_of_not_running, hrun]
    | slice | writeKeys => exact absurd rfl hne

/-! ### The key scan (R248) -/

theorem keyScan_prevKeys (s : State) : (keyScan s).prevKeys = s.keys := by unfold keyScan; split <;> rfl

theorem keyScan_kjpValid_iff (s : State) : (keyScan s).kjpValid = true ↔ s.keys ≠ 0 ∧ s.keys ≠ s.prevKeys := by
  unfold keyScan
  split
  · exact iff_of_true rfl ‹_›
  · exact iff_of_false Bool.false_ne_true ‹_›

theorem keyScan_kjpKey (s : State) :
    (keyScan s).kjpKey = if (keyScan s).kjpValid then selectKey s.cfg.keySelect s.keys else s.kjpKey := by
  unfold keyScan; split <;> rfl

theorem sameBut_keyScan (s : State) : SameBut [.kjp, .prevKeys] s (keyScan s) := by
  apply SameBut.of_fields <;> simp

/-- The held keys are listed from the lowest to the highest. -/
theorem heldKeys_pairwise_le (k : BitVec 16) : (heldKeys k).Pairwise (· ≤ ·) := List.pairwise_le_range.filter _

theorem toNat_ofNat_of_mem_heldKeys {k : BitVec 16} {i : Nat} (h : i ∈ heldKeys k) : (BitVec.ofNat 4 i).toNat = i := by
  obtain ⟨hlt, -⟩ := (mem_heldKeys k i).1 h
  rw [BitVec.toNat_ofNat, Nat.mod_eq_of_lt hlt]

/-- `KEY_SELECT = Highest` reports a key that no held key lies above. -/
theorem le_selectKey_highest {k : BitVec 16} {i : Nat} (hi : i ∈ heldKeys k) : i ≤ (selectKey .highest k).toNat := by
  have hne : heldKeys k ≠ [] := List.ne_nil_of_mem hi
  rw [selectKey, List.getLastD_eq_getLast?, List.getLast?_eq_getLast_of_ne_nil hne, Option.getD_some,
    toNat_ofNat_of_mem_heldKeys (List.getLast_mem hne)]
  exact (heldKeys_pairwise_le k).rel_getLast hi

/-- `KEY_SELECT = Lowest` reports a key that no held key lies below. -/
theorem selectKey_lowest_le {k : BitVec 16} {i : Nat} (hi : i ∈ heldKeys k) : (selectKey .lowest k).toNat ≤ i := by
  have hne : heldKeys k ≠ [] := List.ne_nil_of_mem hi
  rw [selectKey, List.headD_eq_head?_getD, List.head?_eq_some_head hne, Option.getD_some,
    toNat_ofNat_of_mem_heldKeys (List.head_mem hne)]
  exact (heldKeys_pairwise_le k).rel_head hi

/-- Settles O48: the signal is the condition of the scan, and its key the last or the first of the held keys in rising order. -/
theorem keyScanResolves : Obligations.KeyScanResolves := by
  intro s
  refine ⟨keyScan_prevKeys s, keyScan_kjpValid_iff s, fun hvalid => ?_, fun hclear => ?_, sameBut_keyScan s, rfl⟩
  · obtain ⟨hkeys, -⟩ := (keyScan_kjpValid_iff s).1 hvalid
    rw [keyScan_kjpKey, if_pos hvalid]
    refine ⟨selectKey_held _ hkeys, fun hsel k hk hbit => ?_, fun hsel k hk hbit => ?_⟩ <;> rw [hsel]
    · exact le_selectKey_highest ((mem_heldKeys _ _).2 ⟨hk, hbit⟩)
    · exact selectKey_lowest_le ((mem_heldKeys _ _).2 ⟨hk, hbit⟩)
  · rw [keyScan_kjpKey, if_neg (by simp [hclear])]

/-! ### The end of a slice (R245-R247, R250) -/

theorem endOfSlice_dt (s : State) : (endOfSlice s).dt = (tickDelay s).dt := by simp [endOfSlice]

theorem endOfSlice_st (s : State) : (endOfSlice s).st = (tickSound (tickDelay s)).st := by simp [endOfSlice]

/-- Settles O47: each of the four actions writes its own items, so every item is read off the one action that writes it. -/
theorem endOfSliceSequence : Obligations.EndOfSliceSequence := by
  intro s
  obtain ⟨hst, hsound, hevents⟩ := tickSound_writes (tickDelay s)
  obtain ⟨htick, hhook, hkeys⟩ := interruptTick_writes (tickSound (tickDelay s))
  have hprev : (endOfSlice s).prevKeys = (endOfSlice s).keys := (keyScan_prevKeys _).trans (keyScan_keys _).symm
  refine ⟨?dt, ?st, ?sound, ?events, ?keys, ?hook, hprev, ?valid, sameBut_endOfSlice s⟩
  case dt => rw [endOfSlice_dt, toNat_tickDelay_dt]
  case st => rw [endOfSlice_st, hst, tickDelay_st]
  case sound => simpa [endOfSlice] using hsound
  case events => simp [endOfSlice, htick, hevents]
  case keys =>
    simp only [tickSound_hookKeys, tickDelay_hookKeys, tickSound_keys, tickDelay_keys] at hkeys
    exact (keyScan_keys _).trans hkeys
  case hook => simpa [endOfSlice] using hhook
  case valid => simp [endOfSlice, keyScan_kjpValid_iff]

end Sys2Proof.Proofs
end

section
/-! PROOFS. `OPS_PER_SLICE` steps of the machine are the operation `Slice()` (spec/60_exceptions.md R243): one instruction of a step and
one of `Slice()` differ in what nothing reads, the record of events and the position in the slice. -/

namespace Sys2Proof.Proofs

open Sys2Proof.Machine Sys2Proof.Safety

/-! ### The state without what nothing reads -/

/-- The state without the record of events and the position in the slice, which no instruction and no end of a slice reads. -/
def bare (s : State) : State := { s with events := [], phase := .between }

/-- `f` does the same, but for the record of events and the position, whatever these were before. -/
def Blind (f : State → State) : Prop := ∀ s, bare (f s) = bare (f (bare s))

theorem Blind.congr {f : State → State} (hf : Blind f) {s t : State} (h : bare s = bare t) : bare (f s) = bare (f t) := by
  rw [hf s, hf t, h]

theorem Blind.comp {f g : State → State} (hg : Blind g) (hf : Blind f) : Blind fun s => g (f s) := fun s => hg.congr (hf s)

theorem Blind.foldl {α : Type} {f : State → α → State} (hf : ∀ a, Blind (f · a)) (l : List α) : Blind (l.foldl f) := by
  induction l with
  | nil => exact fun _ => rfl
  | cons a l ih => exact ih.comp (hf a)

theorem blind_memWriteBytes (a : Nat) (bs : List Byte) : Blind (memWriteBytes · a bs) := by
  induction bs generalizing a with
  | nil => exact fun _ => rfl
  | cons b bs ih => exact (ih (a + 1)).comp (g := (memWriteBytes · (a + 1) bs)) (f := (memWrite · a b)) fun _ => rfl

/-- The blocks of registers are moved blindly, wherever the bytes come from (R158-R160). -/
theorem blind_blockLoad (f : Nat → Byte) (l : List Nat) : Blind (l.foldl fun t i => setV t (regOf i) (f i)) :=
  Blind.foldl (fun _ _ => rfl) l

theorem blind_blockSave (f : Nat → Byte) (l : List Nat) : Blind (l.foldl fun t i => setRpl t i (f i)) :=
  Blind.foldl (fun _ _ => rfl) l

theorem blind_skipIf (b : Bool) : Blind (skipIf b) := by
  cases b <;> exact fun _ => rfl

/-! ### The end of a slice (R245-R248) -/

theorem Blind.ite {c : State → Prop} [DecidablePred c] {f g : State → State} (hc : ∀ s, c s ↔ c (bare s)) (hf : Blind f)
    (hg : Blind g) : Blind fun s => if c s then f s else g s := by
  intro s
  by_cases h : c s
  · simpa only [if_pos h, if_pos ((hc s).1 h)] using hf s
  · simpa only [if_neg h, if_neg (mt (hc s).2 h)] using hg s

theorem blind_tickDelay : Blind tickDelay :=
  Blind.ite (c := fun s => s.dt = 0) (fun _ => Iff.rfl) (fun _ => rfl) fun _ => rfl

theorem blind_tickSound : Blind tickSound :=
  Blind.ite (c := fun s => s.st = 0) (fun _ => Iff.rfl) (fun _ => rfl)
    (Blind.ite (c := fun s => s.st - 1 = 0) (fun _ => Iff.rfl) (fun _ => rfl) fun _ => rfl)

theorem blind_interruptTick : Blind interruptTick := by
  intro s
  cases h : s.hookKeys with
  | nil => simp [interruptTick, emit, bare, h]
  | cons k rest => cases k <;> simp [interruptTick, emit, bare, h]

theorem blind_keyScan : Blind keyScan :=
  Blind.ite (c := fun s => s.keys ≠ 0 ∧ s.keys ≠ s.prevKeys) (fun _ => Iff.rfl) (fun _ => rfl) fun _ => rfl

theorem blind_endOfSlice : Blind endOfSlice :=
  blind_keyScan.comp (blind_interruptTick.comp (blind_tickSound.comp blind_tickDelay))

/-! ### One instruction (R96) -/

/-- The answer of an instruction, its next state bare. -/
def bareResult : Result → Result
  | .next t => .next (bare t)
  | r => r

theorem bareResult_next {s t : State} (h : bare s = bare t) : bareResult (.next s) = bareResult (.next t) :=
  congrArg Host.Outcome.next h

theorem bareResult_ite {c : Prop} [Decidable c] {a b a' b' : Result} (ha : bareResult a = bareResult a')
    (hb : bareResult b = bareResult b') : bareResult (if c then a else b) = bareResult (if c then a' else b') := by
  split
  · exact ha
  · exact hb

/-- No instruction reads the record of events or the position in the slice. -/
theorem exec_bare (i : Instr) (s : State) : bareResult (exec i s) = bareResult (exec i (bare s)) := by
  cases i
  case ret | call | ldVxK | ldStVx => exact bareResult_ite rfl rfl
  case seVxKk | sneVxKk | seVxVy | sneVxVy | skp | sknp => exact bareResult_next (blind_skipIf _ s)
  case ldBVx | ldMiVx => exact bareResult_next (blind_memWriteBytes _ _ s)
  case ldVxMi => exact bareResult_next (blind_blockLoad _ _ s)
  case ldRVx => exact bareResult_ite (bareResult_next (blind_blockSave _ _ s)) rfl
  case ldVxR => exact bareResult_ite (bareResult_next (blind_blockLoad _ _ s)) rfl
  all_goals rfl

theorem runInstr_bare {s : State} (hb : Booted s) : bareResult (runInstr s) = bareResult (runInstr (bare s)) := by
  cases h : decode (memWord s s.pc.toNat) with
  | ok i =>
    rw [runInstr_of_ok hb h, runInstr_of_ok (s := bare s) hb h]
    exact exec_bare i (fetch s)
  | error e =>
    rw [runInstr_of_error hb h, runInstr_of_error (s := bare s) hb h]
    rfl

/-- From two states that are the same when bare, one instruction leaves two such states. -/
theorem runInstr_of_bare_eq {s w : State} (hb : Booted s) (h : bare s = bare w) :
    ∃ u v, runInstr s = .next u ∧ runInstr w = .next v ∧ bare u = bare v := by
  have hbw : Booted w := show Booted (bare w) from h ▸ hb
  obtain ⟨u, hu⟩ := runInstr_completes hb
  obtain ⟨v, hv⟩ := runInstr_completes hbw
  have hbare : bareResult (runInstr s) = bareResult (runInstr w) := by rw [runInstr_bare hb, runInstr_bare hbw, h]
  rw [hu, hv] at hbare
  exact ⟨u, v, hu, hv, Host.Outcome.next.inj hbare⟩

/-! ### The steps beside the loop of `Slice()` (R243, R290) -/

/-- `s`, of the machine's steps, and `w`, of the loop of `Slice()`, are at one place of a slice with `n` instructions to go, and the host
has nothing else to do. -/
structure AtSamePlace (n : Nat) (s w : State) : Prop where
  legal : s.cfg.Legal
  booted : Booted s
  noMoves : s.hostMoves = []
  left : s.sliceLeft = n
  between : w.phase = .between
  bare_eq : bare s = bare w

theorem AtSamePlace.run_eq {n : Nat} {s w : State} (h : AtSamePlace n s w) : w.run = s.run :=
  (congrArg State.run h.bare_eq).symm

/-- What `Slice()` does after its loop. -/
def afterLoop (s : State) : State := if s.run = .running then endOfSlice s else s

theorem afterLoop_of_running {s : State} (hrun : s.run = .running) : afterLoop s = endOfSlice s := if_pos hrun

theorem afterLoop_of_not_running {s : State} (hrun : s.run ≠ .running) : afterLoop s = s := if_neg hrun

theorem afterLoop_phase (s : State) : (afterLoop s).phase = s.phase := by
  unfold afterLoop
  split
  · exact endOfSlice_phase s
  · rfl

theorem doSlice_of_sliceLoop {s t : State} (hrun : s.run = .running)
    (h : sliceLoop s.cfg.opsPerSlice { s with sliceLeft := s.cfg.opsPerSlice } = .next t) :
    doSlice s = .next (afterLoop t) := by
  rw [doSlice, if_pos hrun, h]
  rfl

theorem doSlice_of_not_running {s : State} (hrun : s.run ≠ .running) : doSlice s = .next s := by
  rw [doSlice, if_neg hrun]

theorem sliceLoop_of_not_running {s : State} (hrun : s.run ≠ .running) (n : Nat) : sliceLoop n s = .next s := by
  cases n with
  | zero => rfl
  | succ n => rw [sliceLoop, if_neg hrun]

/-- One instruction of a step and one pass of the loop. -/
theorem AtSamePlace.instr {n : Nat} {s w : State} (h : AtSamePlace (n + 1) s w) (hrun : s.run = .running) :
    ∃ u v, sliceStep s = .next (closeStep u) ∧ sliceLoop (n + 1) w = sliceLoop n v ∧ AtSamePlace n u v := by
  obtain ⟨u, v, hu, hv, huv⟩ := runInstr_of_bare_eq h.booted h.bare_eq
  have hframe := runInstr_frame hu
  have hcfg : u.cfg = s.cfg := hframe .cfg (by decide)
  have hmoves : u.hostMoves = s.hostMoves := hframe .hostMoves (by decide)
  have hleft : u.sliceLeft = s.sliceLeft := hframe .sliceLeft (by decide)
  have hphase : v.phase = w.phase := runInstr_frame hv .phase (by decide)
  have hbu : Booted u := runInstr_keeps_booted hu h.booted
  have hspend : Blind fun t => { t with sliceLeft := t.sliceLeft - 1 } := fun _ => rfl
  refine ⟨{ u with sliceLeft := u.sliceLeft - 1 }, { v with sliceLeft := v.sliceLeft - 1 }, ?step, ?loop, ?place⟩
  case step => rw [sliceStep, hu]
  case loop => rw [sliceLoop, if_pos (h.run_eq.trans hrun), hv]
  case place =>
    exact ⟨hcfg ▸ h.legal, hbu, hmoves.trans h.noMoves,
      by rw [hleft, h.left, Nat.add_sub_cancel], hphase.trans h.between, hspend.congr huv⟩

theorem run_succ {s t : State} (h : step s = .next t) (n : Nat) : core.run (n + 1) s = core.run n t := by
  have hstep : core.step s = .next t := h
  simp only [Host.Core.run, hstep]

/-- A core that does not run does nothing in any number of steps (R242). -/
theorem run_of_not_running (n : Nat) {s : State} (hl : s.cfg.Legal) (hrun : s.run ≠ .running) (hp : s.phase = .between)
    (hm : s.hostMoves = []) : Completes (core.run n s) fun t => t.phase = .between ∧ bare t = bare s := by
  induction n generalizing s with
  | zero => exact ⟨s, rfl, hp, rfl⟩
  | succ n ih =>
    obtain ⟨hidle, -⟩ := nothingExecutesUnlessRunning s hl hrun hp
    rw [run_succ (hidle hm)]
    exact ih (s := { s with events := [] }) hl hrun hp hm

theorem bare_of_between {s : State} (h : s.phase = .between) : bare s = { s with events := [] } := by
  rw [bare, ← h]

theorem eq_of_bare_eq {s t : State} (h : bare s = bare t) (hs : s.phase = .between) (ht : t.phase = .between) :
    ({ s with events := [] } : State) = { t with events := [] } := by
  rw [← bare_of_between hs, ← bare_of_between ht, h]

/-- `n` steps from `s` end as `n` passes of the loop from `w` and what follows the loop do, but for the record of events. -/
def EndsAlike (n : Nat) (s w : State) : Prop :=
  Completes (core.run n s) fun t => Completes (sliceLoop n w) fun v =>
    ({ t with events := [] } : State) = { afterLoop v with events := [] }

theorem EndsAlike.of_bare_eq {n : Nat} {s w t v : State} (ht : core.run n s = .next t) (hv : sliceLoop n w = .next v)
    (h : bare t = bare (afterLoop v)) (htp : t.phase = .between) (hvp : v.phase = .between) : EndsAlike n s w :=
  ⟨t, ht, v, hv, eq_of_bare_eq h htp ((afterLoop_phase v).trans hvp)⟩

/-- A core that an instruction has halted does nothing in the steps that are left (R242, R243). -/
theorem AtSamePlace.endsAlike_of_not_running {n : Nat} {s w : State} (h : AtSamePlace n s w) (hrun : s.run ≠ .running) :
    EndsAlike n (closeStep s) w := by
  have hw : w.run ≠ .running := h.run_eq ▸ hrun
  obtain ⟨t, ht, hp, hbare⟩ := run_of_not_running n (s := { s with phase := .between }) h.legal hrun rfl h.noMoves
  rw [closeStep_of_not_running hrun]
  refine .of_bare_eq ht (sliceLoop_of_not_running hw n) ?_ hp h.between
  rw [afterLoop_of_not_running hw, hbare]
  exact h.bare_eq

/-- After an instruction, the steps that are left and the passes that are left do the same, by induction on the budget. -/
theorem AtSamePlace.endsAlike {n : Nat} {s w : State} (h : AtSamePlace n s w) : EndsAlike n (closeStep s) w := by
  induction n generalizing s w with
  | zero =>
    by_cases hrun : s.run = .running
    · have hw : w.run = .running := h.run_eq.trans hrun
      rw [closeStep_of_spent hrun h.left]
      refine .of_bare_eq rfl rfl ?_ rfl h.between
      rw [afterLoop_of_running hw]
      exact blind_endOfSlice.congr h.bare_eq
    · exact h.endsAlike_of_not_running hrun
  | succ n ih =>
    by_cases hrun : s.run = .running
    · have hleft : 0 < s.sliceLeft := by rw [h.left]; exact Nat.succ_pos n
      have hruns : RunsInstruction { s with phase := .inSlice } := ⟨h.legal, hrun, .inl ⟨rfl, hleft⟩⟩
      have hnext : AtSamePlace (n + 1) (atFetch { s with phase := .inSlice }) w :=
        ⟨h.legal, h.booted, h.noMoves, h.left, h.between, h.bare_eq⟩
      obtain ⟨u, v, hstep, hloop, huv⟩ := hnext.instr hrun
      rw [closeStep_of_left hrun hleft.ne', EndsAlike, run_succ ((step_of_runs hruns).trans hstep), hloop]
      exact ih huv
    · exact h.endsAlike_of_not_running hrun

/-- Settles O49: the first step gives the budget and runs one instruction, the rest is the induction; a core that does not run does nothing
either way. -/
theorem sliceIsItsSteps : Obligations.SliceIsItsSteps := by
  intro s hl hb hp hm
  by_cases hrun : s.run = .running
  · have ⟨_, _, hops⟩ := hl
    obtain ⟨n, hn⟩ := Nat.exists_eq_succ_of_ne_zero (Nat.pos_iff_ne_zero.1 hops)
    have hruns : RunsInstruction s := ⟨hl, hrun, .inr ⟨hp, .inl hm⟩⟩
    have hstart : AtSamePlace (n + 1) (atFetch s) { s with sliceLeft := s.cfg.opsPerSlice } := by
      refine ⟨hl, hb, ?_, ?_, hp, ?_⟩ <;> simp [atFetch, bare, hp, hm, hn]
    obtain ⟨u, v, hstep, hloop, huv⟩ := hstart.instr hrun
    obtain ⟨t, ht, w, hw, hsame⟩ := huv.endsAlike
    refine ⟨t, ?_, afterLoop w, doSlice_of_sliceLoop hrun ?_, hsame⟩
    · rw [hn, run_succ ((step_of_runs hruns).trans hstep), ht]
    · rw [← hw, ← hloop, hn]
  · obtain ⟨t, ht, hpt, hbare⟩ := run_of_not_running s.cfg.opsPerSlice hl hrun hp hm
    exact ⟨t, ht, s, doSlice_of_not_running hrun, eq_of_bare_eq hbare hpt hp⟩

end Sys2Proof.Proofs
end
